-- ==== Sys2Proof/Word.lean ====
section
/-!
DEFINITION. The words the core computes with (`00_scope.md` R6: every value is an unsigned integer).
-/
namespace Sys2Proof

/-- An 8-bit value: a register, a memory byte, `kk` (R6, R20). -/
abbrev Byte := BitVec 8

/-- A 16-bit value: an opcode word, `pc`, `I`, a stack slot (R6, R23, R25, R26). -/
abbrev Word := BitVec 16

/-- A 12-bit address operand `nnn` (R73). -/
abbrev Addr12 := BitVec 12

/-- The index of a general register, 0..15 (R20, R74). -/
abbrev Reg := Fin 16

/-- The index of a key, 0..15 (R29). -/
abbrev Key := Fin 16

/-- One row of the framebuffer: bit `x` is the pixel of column `x` (R30). -/
abbrev PixelRow := BitVec 64

end Sys2Proof
end

