-- ==== Sys2Proof/Config.lean ====
section
/-!
DEFINITION. What is fixed for a machine (`00_scope.md` R5): the settled values, the type of the named parameters
(their defaults are in Machine/Params.lean), and the one free value, the random draw.
-/
namespace Sys2Proof

/-- `ZERO_OPCODE_MODE` (R5, D3): what the words 0x0nnn other than 00E0 and 00EE do. -/
inductive ZeroOpcodeMode where
  | nop0000   -- 0x0000 is a no-op, every other one is illegal
  | sysIgnore -- every one is a no-op
  | fault     -- every one is illegal
deriving DecidableEq, Repr

/-- `FONT_WRITE_POLICY` (R5, D10): what a store to 0x000-0x04F does. -/
inductive FontWritePolicy where
  | fault
  | allow
deriving DecidableEq, Repr

/-- The named parameters of R5. -/
structure Config where
  /-- `SHIFT_READS_VY` (D4): SHR and SHL shift Vy instead of Vx. -/
  shiftReadsVy : Bool
  /-- `ZERO_OPCODE_MODE` (D3). -/
  zeroOpcodeMode : ZeroOpcodeMode
  /-- `FLAG_WRITE_LAST` (D5): the flag is written after the result. -/
  flagWriteLast : Bool
  /-- `KEY_SCAN_ORDER` (D12): the order in which `LD Vx, K` scans the keys. -/
  keyScanOrder : List Key
  /-- `FONT_WRITE_POLICY` (D10). -/
  fontWritePolicy : FontWritePolicy
  /-- Bytes 5-79 of `FONT_TABLE` (D23), glyphs 1 to F. Bytes 0-4 are fixed by the source (R59). -/
  fontRest : Vector Byte 75
deriving DecidableEq, Repr

namespace Config

/-- The legal settings: the key scan visits each of the 16 keys exactly once (R192 "scans all 16 key flags"). -/
def wf (c : Config) : Bool := c.keyScanOrder.isPerm (List.finRange 16)

/-- `MEM_SIZE` (R5). -/
def memSize : Nat := 4096

/-- The first address past the font, which holds 16 glyphs of 5 bytes at `FONT_BASE` = 0x000 (R5, R58). -/
def fontEnd : Nat := 0x050

/-- `PROGRAM_ORIGIN` (R5). -/
def programOrigin : Nat := 0x200

/-- `MAX_ROM` (R5). -/
def maxRom : Nat := 3584

/-- `MAX_SPRITE_ROWS` (R5, C1). -/
def maxSpriteRows : Nat := 15

/-- `STEPS_PER_TICK` (R5): the host's discipline; no rule of the block depends on it (R287). -/
def stepsPerTick : Nat := 10

/-- `TICK_RATE` in Hz (R5): the host's discipline; no rule of the block depends on it (R287). -/
def tickRate : Nat := 60

end Config

/-- FREE VALUE (R42, R141, R252, D22; log 3): the `rnd` byte of the n-th STEP. It has no body, so nothing can be proved of
its values: a claim about `step` holds for every sequence of draws. -/
opaque Config.freeRnd : Nat → Byte

end Sys2Proof
end

