-- ==== Sys2Proof/Machine/Params.lean ====
section
/-!
DEFINITION. The default values of the named parameters (`00_scope.md` R5) and the font table (`20_memory.md` R59).
-/
namespace Sys2Proof

/-- Glyph 0, the five bytes the source fixes (R59). -/
def Config.glyph0 : Vector Byte 5 := #v[0xF0, 0x90, 0x90, 0x90, 0xF0]

/-- `FONT_TABLE` (R59): glyph g at 5·g, the first five bytes fixed. -/
def Config.fontTable (c : Config) : Vector Byte 80 := Config.glyph0 ++ c.fontRest

/-- The default glyphs 1 to F. PRESUMED (log 13): the standard font, general knowledge in the spec (R59, G2). -/
def Config.standardFontRest : Vector Byte 75 :=
  (#v[0x20, 0x60, 0x20, 0x20, 0x70,  0xF0, 0x10, 0xF0, 0x80, 0xF0,  0xF0, 0x10, 0xF0, 0x10, 0xF0] : Vector Byte 15) ++
  (#v[0x90, 0x90, 0xF0, 0x10, 0x10,  0xF0, 0x80, 0xF0, 0x10, 0xF0,  0xF0, 0x80, 0xF0, 0x90, 0xF0] : Vector Byte 15) ++
  (#v[0xF0, 0x10, 0x20, 0x40, 0x40,  0xF0, 0x90, 0xF0, 0x90, 0xF0,  0xF0, 0x90, 0xF0, 0x10, 0xF0] : Vector Byte 15) ++
  (#v[0xF0, 0x90, 0xF0, 0x90, 0x90,  0xE0, 0x90, 0xE0, 0x90, 0xE0,  0xF0, 0x80, 0x80, 0x80, 0xF0] : Vector Byte 15) ++
  (#v[0xE0, 0x90, 0x90, 0x90, 0xE0,  0xF0, 0x80, 0xF0, 0x80, 0xF0,  0xF0, 0x80, 0xF0, 0x80, 0x80] : Vector Byte 15)

/-- The key scan order by default: ascending 0..15 (R5, R192, D12). -/
def Config.ascendingKeys : List Key := [0, 1, 2, 3, 4, 5, 6, 7, 8, 9, 10, 11, 12, 13, 14, 15]

/-- The parameters at their defaults (R5; log 8 to 13). -/
def Config.default : Config where
  shiftReadsVy := false
  zeroOpcodeMode := .nop0000
  flagWriteLast := true
  keyScanOrder := Config.ascendingKeys
  fontWritePolicy := .fault
  fontRest := Config.standardFontRest

end Sys2Proof
end

