-- ==== Sys2Proof/Syntax.lean ====
section
/-!
DEFINITION. The instructions: one constructor per row of spec/opcode_table.json (`30_encoding.md` R76, R77), in the
table's order.
-/
namespace Sys2Proof

inductive Instr where
  /-- NOP, 0000 (R100); under `SYS_IGNORE` every 0nnn but 00E0 and 00EE. -/
  | nop
  /-- CLS, 00E0 (R170). -/
  | cls
  /-- RET, 00EE (R103). -/
  | ret
  /-- JP nnn, 1nnn (R101). -/
  | jp (nnn : Addr12)
  /-- CALL nnn, 2nnn (R102). -/
  | call (nnn : Addr12)
  /-- SE Vx, kk, 3xkk (R105). -/
  | seKk (x : Reg) (kk : Byte)
  /-- SNE Vx, kk, 4xkk (R106). -/
  | sneKk (x : Reg) (kk : Byte)
  /-- SE Vx, Vy, 5xy0 (R107). -/
  | seVy (x y : Reg)
  /-- LD Vx, kk, 6xkk (R130). -/
  | ldKk (x : Reg) (kk : Byte)
  /-- ADD Vx, kk, 7xkk (R131). -/
  | addKk (x : Reg) (kk : Byte)
  /-- LD Vx, Vy, 8xy0 (R132). -/
  | ldVy (x y : Reg)
  /-- OR Vx, Vy, 8xy1 (R133). -/
  | orVy (x y : Reg)
  /-- AND Vx, Vy, 8xy2 (R134). -/
  | andVy (x y : Reg)
  /-- XOR Vx, Vy, 8xy3 (R135). -/
  | xorVy (x y : Reg)
  /-- ADD Vx, Vy, 8xy4 (R136). -/
  | addVy (x y : Reg)
  /-- SUB Vx, Vy, 8xy5 (R137). -/
  | subVy (x y : Reg)
  /-- SHR Vx {, Vy}, 8xy6 (R138). The y field is kept: it is an operand under `SHIFT_READS_VY` (log 17). -/
  | shr (x y : Reg)
  /-- SUBN Vx, Vy, 8xy7 (R139). -/
  | subnVy (x y : Reg)
  /-- SHL Vx {, Vy}, 8xyE (R140). The y field is kept (log 17). -/
  | shl (x y : Reg)
  /-- SNE Vx, Vy, 9xy0 (R108). -/
  | sneVy (x y : Reg)
  /-- LD I, nnn, Annn (R213). -/
  | ldI (nnn : Addr12)
  /-- JP V0, nnn, Bnnn (R104). -/
  | jpV0 (nnn : Addr12)
  /-- RND Vx, kk, Cxkk (R141). -/
  | rnd (x : Reg) (kk : Byte)
  /-- DRW Vx, Vy, N, Dxyn (R171): n is the number of sprite rows. -/
  | drw (x y : Reg) (n : Nat)
  /-- SKP Vx, Ex9E (R190). -/
  | skp (x : Reg)
  /-- SKNP Vx, ExA1 (R191). -/
  | sknp (x : Reg)
  /-- LD Vx, DT, Fx07 (R210). -/
  | ldVxDt (x : Reg)
  /-- LD Vx, K, Fx0A (R192). -/
  | ldVxK (x : Reg)
  /-- LD DT, Vx, Fx15 (R211). -/
  | ldDtVx (x : Reg)
  /-- LD ST, Vx, Fx18 (R212). -/
  | ldStVx (x : Reg)
  /-- ADD I, Vx, Fx1E (R214). -/
  | addI (x : Reg)
  /-- LD F, Vx, Fx29 (R215). -/
  | ldF (x : Reg)
  /-- LD B, Vx, Fx33 (R216). -/
  | ldB (x : Reg)
  /-- LD [I], Vx, Fx55 (R217). -/
  | storeBlock (x : Reg)
  /-- LD Vx, [I], Fx65 (R218). -/
  | loadBlock (x : Reg)
deriving DecidableEq, Repr

end Sys2Proof
end

