-- ==== Sys2Proof/WellFormed.lean ====
section
/-!
DEFINITION. Which instruction terms some word encodes. Register indices, kk and nnn are in range by their types (R73,
R74); two checks remain.
-/
namespace Sys2Proof

/-- Check 1: DRW's row count is at most `MAX_SPRITE_ROWS` (R5, R73). Check 2: NOP has no word under
`ZERO_OPCODE_MODE = FAULT` (R78). -/
def Instr.wf (mode : ZeroOpcodeMode) : Instr → Bool
  | .nop => mode != .fault
  | .cls => true
  | .ret => true
  | .jp _ => true
  | .call _ => true
  | .seKk _ _ => true
  | .sneKk _ _ => true
  | .seVy _ _ => true
  | .ldKk _ _ => true
  | .addKk _ _ => true
  | .ldVy _ _ => true
  | .orVy _ _ => true
  | .andVy _ _ => true
  | .xorVy _ _ => true
  | .addVy _ _ => true
  | .subVy _ _ => true
  | .shr _ _ => true
  | .subnVy _ _ => true
  | .shl _ _ => true
  | .sneVy _ _ => true
  | .ldI _ => true
  | .jpV0 _ => true
  | .rnd _ _ => true
  | .drw _ _ n => n ≤ Config.maxSpriteRows
  | .skp _ => true
  | .sknp _ => true
  | .ldVxDt _ => true
  | .ldVxK _ => true
  | .ldDtVx _ => true
  | .ldStVx _ => true
  | .addI _ => true
  | .ldF _ => true
  | .ldB _ => true
  | .storeBlock _ => true
  | .loadBlock _ => true

end Sys2Proof
end

