-- ==== Sys2Proof/Decode.lean ====
section
/-!
DEFINITION. The decoder, the encoder and the opcode table (`30_encoding.md` R70-R81). Every bit pattern is the standard
CHIP-8 table, general knowledge in the spec (D2, G1; PRESUMED, log 7).
-/
namespace Sys2Proof

/-- Why a word is not an instruction. -/
inductive DecodeError where
  /-- The word matches no row of the opcode table (R78). -/
  | unknownInstruction (op : Word)
  /-- Fewer than two bytes are left (R70: a decoder always takes exactly two). -/
  | truncated
deriving DecidableEq, Repr

/-! ### The fields of a word (R72) -/

/-- `c`, bits 15:12: the family. -/
def opFamily (op : Word) : Nat := (op.extractLsb' 12 4).toNat

/-- `X`, bits 11:8. -/
def opX (op : Word) : Reg := (op.extractLsb' 8 4).toFin

/-- `Y`, bits 7:4. -/
def opY (op : Word) : Reg := (op.extractLsb' 4 4).toFin

/-- `N`, bits 3:0. -/
def opN (op : Word) : Nat := (op.extractLsb' 0 4).toNat

/-- `kk`, bits 7:0. -/
def opKk (op : Word) : Byte := op.extractLsb' 0 8

/-- `nnn`, bits 11:0. -/
def opNnn (op : Word) : Addr12 := op.extractLsb' 0 12

/-! ### Dispatch (R76 to R79) -/

/-- Family 0, which depends on `ZERO_OPCODE_MODE` (R78, R100). -/
def decodeZero (mode : ZeroOpcodeMode) (op : Word) : Option Instr :=
  if op = 0x00E0 then some .cls
  else if op = 0x00EE then some .ret
  else match mode with
    | .nop0000 => if op = 0x0000 then some .nop else none
    | .sysIgnore => some .nop
    | .fault => none

/-- Family 8: the low nibble selects the operation (R77 rows 11 to 19). -/
def decodeAlu (op : Word) : Option Instr :=
  match opN op with
  | 0x0 => some (.ldVy (opX op) (opY op))
  | 0x1 => some (.orVy (opX op) (opY op))
  | 0x2 => some (.andVy (opX op) (opY op))
  | 0x3 => some (.xorVy (opX op) (opY op))
  | 0x4 => some (.addVy (opX op) (opY op))
  | 0x5 => some (.subVy (opX op) (opY op))
  | 0x6 => some (.shr (opX op) (opY op))
  | 0x7 => some (.subnVy (opX op) (opY op))
  | 0xE => some (.shl (opX op) (opY op))
  | _ => none

/-- Family E: the low byte selects the key test (R77 rows 25, 26). -/
def decodeKey (op : Word) : Option Instr :=
  if opKk op = 0x9E then some (.skp (opX op))
  else if opKk op = 0xA1 then some (.sknp (opX op))
  else none

/-- Family F: the low byte selects the operation (R77 rows 27 to 35). -/
def decodeMisc (op : Word) : Option Instr :=
  if opKk op = 0x07 then some (.ldVxDt (opX op))
  else if opKk op = 0x0A then some (.ldVxK (opX op))
  else if opKk op = 0x15 then some (.ldDtVx (opX op))
  else if opKk op = 0x18 then some (.ldStVx (opX op))
  else if opKk op = 0x1E then some (.addI (opX op))
  else if opKk op = 0x29 then some (.ldF (opX op))
  else if opKk op = 0x33 then some (.ldB (opX op))
  else if opKk op = 0x55 then some (.storeBlock (opX op))
  else if opKk op = 0x65 then some (.loadBlock (opX op))
  else none

/-- The instruction a word stands for, or none (R76: a closed variant, one tag per row). -/
def decodeWord? (mode : ZeroOpcodeMode) (op : Word) : Option Instr :=
  match opFamily op with
  | 0x0 => decodeZero mode op
  | 0x1 => some (.jp (opNnn op))
  | 0x2 => some (.call (opNnn op))
  | 0x3 => some (.seKk (opX op) (opKk op))
  | 0x4 => some (.sneKk (opX op) (opKk op))
  | 0x5 => if opN op = 0 then some (.seVy (opX op) (opY op)) else none
  | 0x6 => some (.ldKk (opX op) (opKk op))
  | 0x7 => some (.addKk (opX op) (opKk op))
  | 0x8 => decodeAlu op
  | 0x9 => if opN op = 0 then some (.sneVy (opX op) (opY op)) else none
  | 0xA => some (.ldI (opNnn op))
  | 0xB => some (.jpV0 (opNnn op))
  | 0xC => some (.rnd (opX op) (opKk op))
  | 0xD => some (.drw (opX op) (opY op) (opN op))
  | 0xE => decodeKey op
  | _ => decodeMisc op

/-- Decode one word, rejecting by name. -/
def decodeWord (mode : ZeroOpcodeMode) (op : Word) : Except DecodeError Instr :=
  match decodeWord? mode op with
  | some i => .ok i
  | none => .error (.unknownInstruction op)

/-- The word held by two consecutive bytes: high byte first (R53, R54). -/
def wordOfBytes (hi lo : Byte) : Word := hi ++ lo

/-- The two bytes of a word, in address order (R54). -/
def bytesOfWord (op : Word) : List Byte := [op.extractLsb' 8 8, op.extractLsb' 0 8]

/-- Decode the instruction at the head of a byte string; the rest of the string comes back with it (R70). -/
def decodeBytes (mode : ZeroOpcodeMode) : List Byte → Except DecodeError (Instr × List Byte)
  | hi :: lo :: rest =>
    match decodeWord mode (wordOfBytes hi lo) with
    | .ok i => .ok (i, rest)
    | .error e => .error e
  | _ => .error .truncated

/-- The word of an opcode-table row's bits: `w`'s low `nbits` bits, the bits above zero. -/
def tableWord (nbits w : Nat) : Word := BitVec.ofNat 16 (w % 2 ^ nbits)

/-- The decoder's answer for a word numbered as the opcode table numbers it, in the default mode. -/
def decodeTableWord (nbits w : Nat) : Option Instr :=
  match decodeBytes Config.default.zeroOpcodeMode (bytesOfWord (tableWord nbits w)) with
  | .ok (i, _) => some i
  | .error _ => none

/-! ### The encoder (R81: the row's pattern with its fields filled in) -/

/-- Format A: `c` and `nnn` (R75). -/
def encA (c : BitVec 4) (nnn : Addr12) : Word := c ++ nnn

/-- Format XK: `c`, `X`, `kk` (R75). -/
def encXK (c : BitVec 4) (x : Reg) (kk : Byte) : Word := c ++ BitVec.ofFin (w := 4) x ++ kk

/-- Formats XYS and XYN: `c`, `X`, `Y` and the low nibble (R75). -/
def encXYN (c : BitVec 4) (x y : Reg) (n : BitVec 4) : Word :=
  c ++ BitVec.ofFin (w := 4) x ++ BitVec.ofFin (w := 4) y ++ n

/-- The word of an instruction. NOP is 0x0000 in every mode that has it. -/
def encode : Instr → Word
  | .nop => 0x0000
  | .cls => 0x00E0
  | .ret => 0x00EE
  | .jp nnn => encA 0x1 nnn
  | .call nnn => encA 0x2 nnn
  | .seKk x kk => encXK 0x3 x kk
  | .sneKk x kk => encXK 0x4 x kk
  | .seVy x y => encXYN 0x5 x y 0x0
  | .ldKk x kk => encXK 0x6 x kk
  | .addKk x kk => encXK 0x7 x kk
  | .ldVy x y => encXYN 0x8 x y 0x0
  | .orVy x y => encXYN 0x8 x y 0x1
  | .andVy x y => encXYN 0x8 x y 0x2
  | .xorVy x y => encXYN 0x8 x y 0x3
  | .addVy x y => encXYN 0x8 x y 0x4
  | .subVy x y => encXYN 0x8 x y 0x5
  | .shr x y => encXYN 0x8 x y 0x6
  | .subnVy x y => encXYN 0x8 x y 0x7
  | .shl x y => encXYN 0x8 x y 0xE
  | .sneVy x y => encXYN 0x9 x y 0x0
  | .ldI nnn => encA 0xA nnn
  | .jpV0 nnn => encA 0xB nnn
  | .rnd x kk => encXK 0xC x kk
  | .drw x y n => encXYN 0xD x y (BitVec.ofNat 4 n)
  | .skp x => encXK 0xE x 0x9E
  | .sknp x => encXK 0xE x 0xA1
  | .ldVxDt x => encXK 0xF x 0x07
  | .ldVxK x => encXK 0xF x 0x0A
  | .ldDtVx x => encXK 0xF x 0x15
  | .ldStVx x => encXK 0xF x 0x18
  | .addI x => encXK 0xF x 0x1E
  | .ldF x => encXK 0xF x 0x29
  | .ldB x => encXK 0xF x 0x33
  | .storeBlock x => encXK 0xF x 0x55
  | .loadBlock x => encXK 0xF x 0x65

/-! ### The opcode map (R77), as the table gives it -/

/-- One row of R77: the bits the row fixes, and their values. -/
structure OpRow where
  num : Nat
  mask : Word
  pattern : Word
deriving DecidableEq, Repr

/-- A word matches a row when its fixed bits agree (R76). -/
def OpRow.matchesWord (r : OpRow) (op : Word) : Bool := op &&& r.mask == r.pattern

/-- R77's 35 rows, under `ZERO_OPCODE_MODE = NOP_0000`. -/
def opcodeRows : List OpRow :=
  [⟨1, 0xFFFF, 0x0000⟩, ⟨2, 0xFFFF, 0x00E0⟩, ⟨3, 0xFFFF, 0x00EE⟩, ⟨4, 0xF000, 0x1000⟩, ⟨5, 0xF000, 0x2000⟩,
   ⟨6, 0xF000, 0x3000⟩, ⟨7, 0xF000, 0x4000⟩, ⟨8, 0xF00F, 0x5000⟩, ⟨9, 0xF000, 0x6000⟩, ⟨10, 0xF000, 0x7000⟩] ++
  [⟨11, 0xF00F, 0x8000⟩, ⟨12, 0xF00F, 0x8001⟩, ⟨13, 0xF00F, 0x8002⟩, ⟨14, 0xF00F, 0x8003⟩, ⟨15, 0xF00F, 0x8004⟩,
   ⟨16, 0xF00F, 0x8005⟩, ⟨17, 0xF00F, 0x8006⟩, ⟨18, 0xF00F, 0x8007⟩, ⟨19, 0xF00F, 0x800E⟩, ⟨20, 0xF00F, 0x9000⟩] ++
  [⟨21, 0xF000, 0xA000⟩, ⟨22, 0xF000, 0xB000⟩, ⟨23, 0xF000, 0xC000⟩, ⟨24, 0xF000, 0xD000⟩, ⟨25, 0xF0FF, 0xE09E⟩,
   ⟨26, 0xF0FF, 0xE0A1⟩, ⟨27, 0xF0FF, 0xF007⟩, ⟨28, 0xF0FF, 0xF00A⟩, ⟨29, 0xF0FF, 0xF015⟩, ⟨30, 0xF0FF, 0xF018⟩] ++
  [⟨31, 0xF0FF, 0xF01E⟩, ⟨32, 0xF0FF, 0xF029⟩, ⟨33, 0xF0FF, 0xF033⟩, ⟨34, 0xF0FF, 0xF055⟩, ⟨35, 0xF0FF, 0xF065⟩]

/-- The number of an instruction's row in R77. -/
def Instr.rowNum : Instr → Nat
  | .nop => 1
  | .cls => 2
  | .ret => 3
  | .jp _ => 4
  | .call _ => 5
  | .seKk _ _ => 6
  | .sneKk _ _ => 7
  | .seVy _ _ => 8
  | .ldKk _ _ => 9
  | .addKk _ _ => 10
  | .ldVy _ _ => 11
  | .orVy _ _ => 12
  | .andVy _ _ => 13
  | .xorVy _ _ => 14
  | .addVy _ _ => 15
  | .subVy _ _ => 16
  | .shr _ _ => 17
  | .subnVy _ _ => 18
  | .shl _ _ => 19
  | .sneVy _ _ => 20
  | .ldI _ => 21
  | .jpV0 _ => 22
  | .rnd _ _ => 23
  | .drw _ _ _ => 24
  | .skp _ => 25
  | .sknp _ => 26
  | .ldVxDt _ => 27
  | .ldVxK _ => 28
  | .ldDtVx _ => 29
  | .ldStVx _ => 30
  | .addI _ => 31
  | .ldF _ => 32
  | .ldB _ => 33
  | .storeBlock _ => 34
  | .loadBlock _ => 35

end Sys2Proof
end

