-- ==== Sys2Proof/Machine/State.lean ====
section
/-!
DEFINITION. The state of the core (`10_state.md`) as plain data, the fault records (`60_exceptions.md` R240), the refusals,
and the reset state (R35).
-/
namespace Sys2Proof.Machine

/-- The fault classes with their records (R240). A fault is TAKEN (log 2): the step answers a NEXT state whose `status`
holds the record, as R241 says, and never `Host.Outcome.fault`. Every class is safe: the core does no more than the spec
lets it. -/
inductive Fault where
  /-- Code 1, raised at decode for a word that matches no row: the word and its address (R78). Safe. -/
  | unknownInstruction (op a : Word)
  /-- Code 2, raised at the fetch when `pc > 0xFFE`: the pc (R53). Safe. -/
  | pcOutOfRange (pc : Word)
  /-- Code 3, raised by CALL with SP = 16: the instruction's address (R27, C8). Safe. -/
  | stackOverflow (a : Word)
  /-- Code 4, raised by RET with SP = 0: the instruction's address (R27, C8). Safe. -/
  | stackUnderflow (a : Word)
  /-- Code 5, raised by DRW, LD B, LD [I], LD Vx,[I] touching an address above 0xFFF: the lowest failing address, which
  may exceed 16 bits (R51, R52). Safe. -/
  | memOutOfRange (addr : Nat)
  /-- Code 6, raised by LD B and LD [I] storing to 0x000-0x04F under `FONT_WRITE_POLICY = FAULT`: the lowest failing
  address (R52). Safe. -/
  | fontWrite (addr : Nat)
  /-- Code 7, raised by SKP and SKNP with Vx > 15: the register's value (R190, R191). Safe. -/
  | keyIndexOutOfRange (k : Byte)
deriving DecidableEq, Repr

/-- Why the model, or a port, gives no effect. -/
inductive Refusal where
  /-- An instruction without a meaning, rejected by name in `exec`. No arm raises it: every instruction is modelled. Safe. -/
  | notModelled (mnemonic : String)
  /-- LOAD_ROM refuses a byte string longer than `MAX_ROM`; the state does not change (R282). Raised at the port only,
  never by `step`. Safe. -/
  | romTooLarge
deriving DecidableEq, Repr

/-- The run status (R33). -/
inductive Status where
  | running
  | faulted (f : Fault)
deriving DecidableEq, Repr

/-- The memory arena: the bytes that differ from the reset contents, addresses strictly rising (log 5). -/
abbrev Memory := List Host.Cell

structure State where
  /-- `V[0]`..`V[15]` (R20); `V[15]` is VF (R21). -/
  v : Vector Byte 16
  /-- `I` (R25). -/
  i : Word
  /-- `pc` (R23). -/
  pc : Word
  /-- `SP`, the number of occupied stack slots, 0..16 (R26). -/
  sp : Fin 17
  /-- `S[0]`..`S[15]` (R26). -/
  stack : Vector Word 16
  /-- `DT` (R28). -/
  dt : Byte
  /-- `ST` (R28). -/
  st : Byte
  /-- `K[0]`..`K[15]` (R29): true is pressed. -/
  keys : Vector Bool 16
  /-- `FB`, 32 rows of 64 pixels (R30): bit x of row y is the pixel (x, y), true is lit (log 6). -/
  fb : Vector PixelRow 32
  /-- `M` (R31), read through `State.readByte`. -/
  mem : Memory
  /-- `status` (R33). -/
  status : Status
  /-- The model's own: the named parameters of R5; no transaction writes them (log 1). -/
  cfg : Config
  /-- The model's own: the value on STEP's `rnd` input (R40, R252; log 3). -/
  rnd : Byte
  /-- The model's own: how many draws `step` has taken (log 3). -/
  draws : Nat
deriving DecidableEq, Repr

/-- The state after RESET (R35), the parameters at their defaults. `rnd` and `draws` are the model's own (DESIGN CHOICE
0, log 3). -/
def State.reset : State where
  v := Vector.replicate 16 0
  i := 0
  pc := 0x200
  sp := 0
  stack := Vector.replicate 16 0
  dt := 0
  st := 0
  keys := Vector.replicate 16 false
  fb := Vector.replicate 32 0
  mem := []
  status := .running
  cfg := Config.default
  rnd := 0
  draws := 0

end Sys2Proof.Machine
end

