-- ==== Sys2Proof/Machine/Ops.lean ====
section
/-!
DEFINITION. The shared operations: memory (`20_memory.md`), registers, the return stack (`10_state.md` R27), the
framebuffer, and raising a fault with RESET, the only way out of it (`60_exceptions.md` R241, R246).
-/
namespace Sys2Proof.Machine

/-! ### Memory -/

/-- What an address reads as when memory lists nothing for it: the reset contents (R35, R58): the font table, else 0. -/
def Memory.unlisted (c : Config) (a : Nat) : Byte := if h : a < 80 then c.fontTable[a] else 0

/-- The listed byte at an address. -/
def Memory.lookup : Memory → Nat → Option Byte
  | [], _ => none
  | (k, b) :: m, a => if k = a then some b else Memory.lookup m a

/-- `M[a]`. -/
def Memory.read (c : Config) (m : Memory) (a : Nat) : Byte := (Memory.lookup m a).getD (Memory.unlisted c a)

/-- Remove the entry of an address. -/
def Memory.erase : Memory → Nat → Memory
  | [], _ => []
  | (k, b) :: m, a => if k = a then m else (k, b) :: Memory.erase m a

/-- Put an entry at its place in the rising order, over an earlier one for the same address. -/
def Memory.insert : Memory → Nat → Byte → Memory
  | [], a, b => [(a, b)]
  | (k, c) :: m, a, b =>
    if a < k then (a, b) :: (k, c) :: m
    else if a = k then (a, b) :: m
    else (k, c) :: Memory.insert m a b

/-- `M[a] <- b`, keeping the canonical form: no entry equals what its address reads as unlisted. -/
def Memory.write (c : Config) (m : Memory) (a : Nat) (b : Byte) : Memory :=
  if b = Memory.unlisted c a then Memory.erase m a else Memory.insert m a b

/-- The canonical form from an address on: addresses strictly rising, each inside the arena, no entry equal to what its
address reads as unlisted. -/
def Memory.wfFrom (c : Config) : Nat → Memory → Bool
  | _, [] => true
  | lo, (k, b) :: m => lo ≤ k && k < Config.memSize && b != Memory.unlisted c k && Memory.wfFrom c (k + 1) m

/-- The canonical form. -/
def Memory.wf (c : Config) (m : Memory) : Bool := Memory.wfFrom c 0 m

/-- `M[a]` in a state. -/
def State.readByte (s : State) (a : Nat) : Byte := Memory.read s.cfg s.mem a

/-- `M[a] <- b` in a state, unchecked. -/
def State.storeByte (s : State) (a : Nat) (b : Byte) : State := { s with mem := Memory.write s.cfg s.mem a b }

/-- `MemRead(a, 1)` (R51); the address is an unbounded natural. -/
def State.memRead (s : State) (a : Nat) : Except Fault Byte :=
  if a > 0xFFF then .error (.memOutOfRange a) else .ok (s.readByte a)

/-- The check of `MemWrite(a, 1, v)` (R52): the fault it raises, if any. -/
def State.memWriteFault (s : State) (a : Nat) : Option Fault :=
  if a > 0xFFF then some (.memOutOfRange a)
  else if a ≤ 0x04F ∧ s.cfg.fontWritePolicy = .fault then some (.fontWrite a)
  else none

/-- `MemRead` of `n` bytes from `a`, ascending; the first failing address is the one recorded (R171, R218). -/
def State.readBlock (s : State) (a : Nat) : Nat → Except Fault (List Byte)
  | 0 => .ok []
  | n + 1 =>
    match s.memRead a with
    | .error f => .error f
    | .ok b =>
      match State.readBlock s (a + 1) n with
      | .error f => .error f
      | .ok bs => .ok (b :: bs)

/-- The `MemWrite` check over `n` bytes from `a`, made before any of them is written (R216, R217). -/
def State.writeBlockFault (s : State) (a : Nat) : Nat → Option Fault
  | 0 => none
  | n + 1 =>
    match s.memWriteFault a with
    | some f => some f
    | none => State.writeBlockFault s (a + 1) n

/-- The writes themselves, ascending. -/
def State.storeBytes (s : State) (a : Nat) : List Byte → State
  | [] => s
  | b :: bs => State.storeBytes (s.storeByte a b) (a + 1) bs

/-! ### Registers -/

/-- `V[x]` (R7). -/
def State.getV (s : State) (x : Reg) : Byte := s.v[x]

/-- `V[x] <- b` (R7). No register is hardwired (R20). -/
def State.setV (s : State) (x : Reg) (b : Byte) : State := { s with v := s.v.set x b }

/-- The index of VF (R21). -/
def vf : Reg := 15

/-- `I <- w`. -/
def State.setI (s : State) (w : Word) : State := { s with i := w }

/-- `pc <- target`, a control transfer (R7). -/
def State.setPc (s : State) (w : Word) : State := { s with pc := w }

/-- `DT <- b`. -/
def State.setDt (s : State) (b : Byte) : State := { s with dt := b }

/-- `ST <- b`. -/
def State.setSt (s : State) (b : Byte) : State := { s with st := b }

/-- `K[k]` (R29). -/
def State.key (s : State) (k : Key) : Bool := s.keys[k]

/-- `K[k] <- p`: only KEY_EVENT does this (R29). -/
def State.setKey (s : State) (k : Key) (p : Bool) : State := { s with keys := s.keys.set k p }

/-- `V[k]..` from register `k` on, one byte each, ascending; a byte past VF is dropped (no instruction has one). -/
def State.setVsFrom (s : State) (k : Nat) : List Byte → State
  | [] => s
  | b :: bs => if h : k < 16 then State.setVsFrom (s.setV ⟨k, h⟩ b) (k + 1) bs else s

/-- The values of `V[0]..V[x]` (R217). -/
def State.firstVs (s : State) (x : Reg) : List Byte := s.v.toList.take (x.val + 1)

/-- The skip: exactly 2 more on `pc` (R109). -/
def State.skip (s : State) : State := { s with pc := s.pc + 2 }

/-- Skip when the condition holds. -/
def State.skipIf (s : State) (cond : Bool) : State := if cond then s.skip else s

/-! ### Faults and the way out of them -/

/-- `status <- FAULTED(f)` (R241): everything else keeps its value. -/
def State.recordFault (s : State) (f : Fault) : State := { s with status := .faulted f }

/-- The address `a` of the executing instruction, whose `pc` is already `a + 2` (R71). -/
def State.instrAddr (s : State) : Word := s.pc - 2

/-- `raise Fault(f)` inside an instruction (R241): the pc advance is discarded, `pc = a`, and the status records the
fault. An instruction raises before its first write, so nothing else has to be undone. -/
def State.raise (s : State) (f : Fault) : State := { s with pc := s.instrAddr, status := .faulted f }

/-- RESET, the only way out of FAULTED (R246, R280): every piece of state takes its reset value. The parameters are the
machine's (log 1), and the model's draw counter goes on (log 3). -/
def State.resetAll (s : State) : State := { State.reset with cfg := s.cfg, rnd := s.rnd, draws := s.draws }

/-! ### The return stack -/

/-- `Push(w)` (R27). -/
def State.push (s : State) (w : Word) : Except Fault State :=
  if h : s.sp.val < 16 then
    .ok { s with stack := s.stack.set s.sp.val w, sp := ⟨s.sp.val + 1, by omega⟩ }
  else .error (.stackOverflow s.instrAddr)

/-- `Pop()` (R27): the slot keeps its value. -/
def State.pop (s : State) : Except Fault (Word × State) :=
  if h : 0 < s.sp.val then
    .ok (s.stack[s.sp.val - 1], { s with sp := ⟨s.sp.val - 1, by omega⟩ })
  else .error (.stackUnderflow s.instrAddr)

/-! ### The framebuffer -/

/-- `FB[x, y]` (R30). -/
def pixelOf (fb : Vector PixelRow 32) (x : Fin 64) (y : Fin 32) : Bool := fb[y].getLsbD x.val

/-- `FB[x, y]` in a state. -/
def State.pixel (s : State) (x : Fin 64) (y : Fin 32) : Bool := pixelOf s.fb x y

/-- `FB[x, y] <- not FB[x, y]`. -/
def togglePixel (fb : Vector PixelRow 32) (x : Fin 64) (y : Fin 32) : Vector PixelRow 32 :=
  fb.set y (fb[y] ^^^ BitVec.twoPow 64 x.val)

/-- Every pixel false (R170). -/
def clearFb : Vector PixelRow 32 := Vector.replicate 32 0

end Sys2Proof.Machine
end

