-- ==== Sys2Proof/Machine/Operands.lean ====
section
/-!
DEFINITION. The operand forms (`30_encoding.md` R73, R74; `20_memory.md` R56).
-/
namespace Sys2Proof.Machine

/-- `nnn` as an address: `zext_16(nnn)` (R73). -/
def addrOperand (nnn : Addr12) : Word := nnn.zeroExtend 16

/-- The target of `JP V0, nnn`: `zext_16(V[0]) + zext_16(nnn)` (R104). -/
def State.offsetTarget (s : State) (nnn : Addr12) : Word := BitVec.ofNat 16 ((s.getV 0).toNat + nnn.toNat)

/-- The base of a data access: `I` as an unbounded natural, so that `I + k` is not truncated (R51). -/
def State.base (s : State) : Nat := s.i.toNat

/-- The number of registers of a block transfer, V0 through Vx inclusive (R217, R218). -/
def blockLen (x : Reg) : Nat := x.val + 1

/-- The operand a shift reads (R138, R140): Vy under `SHIFT_READS_VY`, else Vx. -/
def State.shiftOperand (s : State) (x y : Reg) : Byte := if s.cfg.shiftReadsVy then s.getV y else s.getV x

/-- The key an index names, or none above 15 (R190). -/
def keyIndex (b : Byte) : Option Key := if h : b.toNat < 16 then some ⟨b.toNat, h⟩ else none

/-- The address of the glyph of a digit: the low nibble times 5 (R215). -/
def glyphAddr (b : Byte) : Word := BitVec.ofNat 16 ((b.toNat &&& 0x0F) * 5)

/-- The three decimal digits, hundreds first, by exact integer division (R216). -/
def decimalDigits (b : Byte) : List Byte :=
  [BitVec.ofNat 8 (b.toNat / 100), BitVec.ofNat 8 (b.toNat / 10 % 10), BitVec.ofNat 8 (b.toNat % 10)]

end Sys2Proof.Machine
end

