-- ==== Sys2Proof/Machine/ControlFlow.lean ====
section
/-!
DEFINITION. No-op, jumps, call, return and skips (`40_control_flow.md`). At entry `pc = a + 2` (R71).
-/
namespace Sys2Proof.Machine

/-- What a step or an instruction answers. -/
abbrev Result := Host.Outcome State Fault Refusal

/-- NOP (R100). -/
def execNop (s : State) : Result := .next s

/-- JP nnn (R101). -/
def execJp (nnn : Addr12) (s : State) : Result := .next (s.setPc (addrOperand nnn))

/-- CALL nnn (R102). -/
def execCall (nnn : Addr12) (s : State) : Result :=
  match s.push s.pc with
  | .ok t => .next (t.setPc (addrOperand nnn))
  | .error f => .next (s.raise f)

/-- RET (R103). -/
def execRet (s : State) : Result :=
  match s.pop with
  | .ok (w, t) => .next (t.setPc w)
  | .error f => .next (s.raise f)

/-- JP V0, nnn (R104). -/
def execJpV0 (nnn : Addr12) (s : State) : Result := .next (s.setPc (s.offsetTarget nnn))

/-- SE Vx, kk (R105). -/
def execSeKk (x : Reg) (kk : Byte) (s : State) : Result := .next (s.skipIf (s.getV x == kk))

/-- SNE Vx, kk (R106). -/
def execSneKk (x : Reg) (kk : Byte) (s : State) : Result := .next (s.skipIf (s.getV x != kk))

/-- SE Vx, Vy (R107). -/
def execSeVy (x y : Reg) (s : State) : Result := .next (s.skipIf (s.getV x == s.getV y))

/-- SNE Vx, Vy (R108). -/
def execSneVy (x y : Reg) (s : State) : Result := .next (s.skipIf (s.getV x != s.getV y))

end Sys2Proof.Machine
end

