-- ==== Sys2Proof/Machine/Flags.lean ====
section
/-!
DEFINITION. The flag computations and the order in which result and flag are written (`41_alu.md` R136-R142). VF is the
only flag (R22).
-/
namespace Sys2Proof.Machine

/-- A flag as a register value: 1 or 0. -/
def flagByte (b : Bool) : Byte := if b then 1 else 0

/-- Carry out of an 8-bit addition (R136). -/
def carryOut (a b : Byte) : Bool := a.toNat + b.toNat ≥ 256

/-- Not-borrow of `a - b` (R137, R139). -/
def notBorrow (a b : Byte) : Bool := a.toNat ≥ b.toNat

/-- The bit a right shift drops (R138). -/
def shiftOutRight (a : Byte) : Bool := a.getLsbD 0

/-- The bit a left shift drops (R140). -/
def shiftOutLeft (a : Byte) : Bool := a.getLsbD 7

/-- The sum modulo 256 (R131, R136). -/
def addMod (a b : Byte) : Byte := BitVec.ofNat 8 (a.toNat + b.toNat)

/-- The difference modulo 256 (R137, R139). -/
def subMod (a b : Byte) : Byte := BitVec.ofNat 8 (a.toNat + 256 - b.toNat)

/-- Write result and flag (R142): under `FLAG_WRITE_LAST` the flag after the result, else the result after the flag. The
order shows only when `x` is VF. -/
def State.writeResultFlag (s : State) (x : Reg) (result : Byte) (flag : Bool) : State :=
  if s.cfg.flagWriteLast then (s.setV x result).setV vf (flagByte flag)
  else (s.setV vf (flagByte flag)).setV x result

end Sys2Proof.Machine
end

