-- ==== Sys2Proof/Machine/Alu.lean ====
section
/-!
DEFINITION. Register load, arithmetic, logic, shifts and random (`41_alu.md`). Operands are read before any write (R7).
-/
namespace Sys2Proof.Machine

/-- LD Vx, kk (R130). -/
def execLdKk (x : Reg) (kk : Byte) (s : State) : Result := .next (s.setV x kk)

/-- ADD Vx, kk (R131): no flag. -/
def execAddKk (x : Reg) (kk : Byte) (s : State) : Result := .next (s.setV x (addMod (s.getV x) kk))

/-- LD Vx, Vy (R132). -/
def execLdVy (x y : Reg) (s : State) : Result := .next (s.setV x (s.getV y))

/-- OR Vx, Vy (R133): no flag. -/
def execOrVy (x y : Reg) (s : State) : Result := .next (s.setV x (s.getV x ||| s.getV y))

/-- AND Vx, Vy (R134): no flag. -/
def execAndVy (x y : Reg) (s : State) : Result := .next (s.setV x (s.getV x &&& s.getV y))

/-- XOR Vx, Vy (R135): no flag. -/
def execXorVy (x y : Reg) (s : State) : Result := .next (s.setV x (s.getV x ^^^ s.getV y))

/-- ADD Vx, Vy (R136): VF is the carry. -/
def execAddVy (x y : Reg) (s : State) : Result :=
  .next (s.writeResultFlag x (addMod (s.getV x) (s.getV y)) (carryOut (s.getV x) (s.getV y)))

/-- SUB Vx, Vy (R137): Vx − Vy, VF is not-borrow. -/
def execSubVy (x y : Reg) (s : State) : Result :=
  .next (s.writeResultFlag x (subMod (s.getV x) (s.getV y)) (notBorrow (s.getV x) (s.getV y)))

/-- SHR Vx {, Vy} (R138): VF is the bit shifted out. -/
def execShr (x y : Reg) (s : State) : Result :=
  .next (s.writeResultFlag x (s.shiftOperand x y >>> 1) (shiftOutRight (s.shiftOperand x y)))

/-- SUBN Vx, Vy (R139): Vy − Vx, VF is not-borrow. -/
def execSubnVy (x y : Reg) (s : State) : Result :=
  .next (s.writeResultFlag x (subMod (s.getV y) (s.getV x)) (notBorrow (s.getV y) (s.getV x)))

/-- SHL Vx {, Vy} (R140): VF is the bit shifted out. -/
def execShl (x y : Reg) (s : State) : Result :=
  .next (s.writeResultFlag x (s.shiftOperand x y <<< 1) (shiftOutLeft (s.shiftOperand x y)))

/-- RND Vx, kk (R141): the step's draw under a mask. -/
def execRnd (x : Reg) (kk : Byte) (s : State) : Result := .next (s.setV x (s.rnd &&& kk))

end Sys2Proof.Machine
end

