-- ==== Sys2Proof/Machine/Draw.lean ====
section
/-!
DEFINITION. Screen clear and sprite draw (`42_draw.md`).
-/
namespace Sys2Proof.Machine

/-- CLS (R170): VF is not written. -/
def execCls (s : State) : Result := .next { s with fb := clearFb }

/-- The column of bit position `b` (0 is leftmost), wrapped (R171). -/
def spriteX (x0 : Byte) (b : Nat) : Fin 64 := Fin.ofNat 64 (x0.toNat + b)

/-- The row of sprite row `r`, wrapped (R171). -/
def spriteY (y0 : Byte) (r : Nat) : Fin 32 := Fin.ofNat 32 (y0.toNat + r)

/-- The pixels under the set bits of sprite row `r`, `b` = 0..7: bit `7 - b` of the byte is column `x0 + b` (R171, D17). -/
def rowBits (x0 y0 : Byte) (r : Nat) (byte : Byte) : List (Fin 64 × Fin 32) :=
  ((List.range 8).filter (fun b => byte.getLsbD (7 - b))).map (fun b => (spriteX x0 b, spriteY y0 r))

/-- The pixels under all set bits of the sprite's rows, row numbers from `r` on, in drawing order. -/
def spriteBits (x0 y0 : Byte) : Nat → List Byte → List (Fin 64 × Fin 32)
  | _, [] => []
  | r, byte :: rows => rowBits x0 y0 r byte ++ spriteBits x0 y0 (r + 1) rows

/-- One set sprite bit: note a collision when the pixel is lit, then toggle it (R171). -/
def blitPixel (acc : Vector PixelRow 32 × Bool) (p : Fin 64 × Fin 32) : Vector PixelRow 32 × Bool :=
  (togglePixel acc.1 p.1 p.2, acc.2 || pixelOf acc.1 p.1 p.2)

/-- The XOR blit: the new framebuffer and the collision (R171). -/
def blit (fb : Vector PixelRow 32) (bits : List (Fin 64 × Fin 32)) : Vector PixelRow 32 × Bool :=
  bits.foldl blitPixel (fb, false)

/-- Draw the sprite rows at (Vx, Vy), both read before VF is written: the framebuffer, then VF = collision (R171). -/
def State.drawSprite (s : State) (x y : Reg) (rows : List Byte) : State :=
  let drawn := blit s.fb (spriteBits (s.getV x) (s.getV y) 0 rows)
  { s with fb := drawn.1 }.setV vf (flagByte drawn.2)

/-- DRW Vx, Vy, N (R171): all reads come first. -/
def execDrw (x y : Reg) (n : Nat) (s : State) : Result :=
  match s.readBlock s.base n with
  | .error f => .next (s.raise f)
  | .ok rows => .next (s.drawSprite x y rows)

end Sys2Proof.Machine
end

