-- ==== Sys2Proof/Machine/IndexTimer.lean ====
section
/-!
DEFINITION. Timer access, index register, font lookup, decimal digits, block transfer (`44_index_timer_memory.md`).
`I` is never changed by a memory access (D14).
-/
namespace Sys2Proof.Machine

/-- LD Vx, DT (R210). -/
def execLdVxDt (x : Reg) (s : State) : Result := .next (s.setV x s.dt)

/-- LD DT, Vx (R211). -/
def execLdDtVx (x : Reg) (s : State) : Result := .next (s.setDt (s.getV x))

/-- LD ST, Vx (R212): never beeps. -/
def execLdStVx (x : Reg) (s : State) : Result := .next (s.setSt (s.getV x))

/-- LD I, nnn (R213). -/
def execLdI (nnn : Addr12) (s : State) : Result := .next (s.setI (addrOperand nnn))

/-- ADD I, Vx (R214): modulo 65536, no flag. -/
def execAddI (x : Reg) (s : State) : Result := .next (s.setI (BitVec.ofNat 16 (s.i.toNat + (s.getV x).toNat)))

/-- LD F, Vx (R215). -/
def execLdF (x : Reg) (s : State) : Result := .next (s.setI (glyphAddr (s.getV x)))

/-- A store of consecutive bytes from `I`: every check before the first write (R216, R217). -/
def State.storeFromI (s : State) (bs : List Byte) : Result :=
  match s.writeBlockFault s.base bs.length with
  | some f => .next (s.raise f)
  | none => .next (s.storeBytes s.base bs)

/-- LD B, Vx (R216). -/
def execLdB (x : Reg) (s : State) : Result := s.storeFromI (decimalDigits (s.getV x))

/-- LD [I], Vx (R217). -/
def execStoreBlock (x : Reg) (s : State) : Result := s.storeFromI (s.firstVs x)

/-- LD Vx, [I] (R218): all reads first. -/
def execLoadBlock (x : Reg) (s : State) : Result :=
  match s.readBlock s.base (blockLen x) with
  | .error f => .next (s.raise f)
  | .ok bs => .next (s.setVsFrom 0 bs)

end Sys2Proof.Machine
end

