-- ==== Sys2Proof/Machine/Keypad.lean ====
section
/-!
DEFINITION. Keypad query and key wait (`43_keypad.md`). Instructions only read the keys (R29).
-/
namespace Sys2Proof.Machine

/-- SKP Vx (R190). -/
def execSkp (x : Reg) (s : State) : Result :=
  match keyIndex (s.getV x) with
  | some k => .next (s.skipIf (s.key k))
  | none => .next (s.raise (.keyIndexOutOfRange (s.getV x)))

/-- SKNP Vx (R191). -/
def execSknp (x : Reg) (s : State) : Result :=
  match keyIndex (s.getV x) with
  | some k => .next (s.skipIf (!s.key k))
  | none => .next (s.raise (.keyIndexOutOfRange (s.getV x)))

/-- The first pressed key in the scan order (R192, D12). -/
def State.firstPressed (s : State) : Option Key := s.cfg.keyScanOrder.find? s.key

/-- LD Vx, K (R192): store the key and go on, or rewind `pc` so that the same word is fetched next. -/
def execLdVxK (x : Reg) (s : State) : Result :=
  match s.firstPressed with
  | some k => .next (s.setV x (BitVec.ofNat 8 k.val))
  | none => .next (s.setPc (s.pc - 2))

end Sys2Proof.Machine
end

