-- ==== Sys2Proof/Machine/Cycle.lean ====
section
/-!
DEFINITION. The fetch-decode-execute cycle (`30_encoding.md` R71): the STEP transaction with its `rnd` input.
-/
namespace Sys2Proof.Machine

/-- `FetchWord(pc)` (R53): both bytes must be in the arena; high byte first. -/
def State.fetchWord (s : State) : Except Fault Word :=
  if s.pc.toNat > 0xFFE then .error (.pcOutOfRange s.pc)
  else .ok (wordOfBytes (s.readByte s.pc.toNat) (s.readByte (s.pc.toNat + 1)))

/-- Fetch and decode (R71): the instruction at `pc`, or the fault of the fetch, else of the decode (R243). -/
def State.fetchDecode (s : State) : Except Fault Instr :=
  match s.fetchWord with
  | .error f => .error f
  | .ok op =>
    match decodeWord s.cfg.zeroOpcodeMode op with
    | .ok i => .ok i
    | .error _ => .error (.unknownInstruction op s.pc)

/-- `pc <- a + 2`, before execution (R71). -/
def State.advance (s : State) : State := { s with pc := s.pc + 2 }

/-- Present a value on the `rnd` input (R40). -/
def State.presentRnd (s : State) (r : Byte) : State := { s with rnd := r }

/-- `STEP(rnd)` (R71). While FAULTED it does nothing (R242). A fault of the fetch or the decode comes before the advance,
so `pc` still is `a`. -/
def stepWith (r : Byte) (s : State) : Result :=
  match s.status with
  | .faulted _ => .next s
  | .running =>
    match s.fetchDecode with
    | .error f => .next ((s.presentRnd r).recordFault f)
    | .ok i => exec i (s.presentRnd r).advance

/-- Count one draw of the free value, for a step that executes (log 3). -/
def State.countDraw (s : State) : State :=
  match s.status with
  | .faulted _ => s
  | .running => { s with draws := s.draws + 1 }

/-- The core is awaiting a key (R34): it is running and the word at `pc` decodes as `LD Vx, K`. A derived observation. -/
def State.awaitingKey (s : State) : Bool :=
  match s.status, s.fetchDecode with
  | .running, .ok (.ldVxK _) => true
  | _, _ => false

/-- Bring the core to where a fetch is possible: RUNNING, and `pc` inside the arena (used by `withFetchWord`, log 21). -/
def State.readyToFetch (s : State) : State :=
  { s with status := .running, pc := if s.pc.toNat > 0xFFE then 0x200 else s.pc }

/-- Store a word where the next fetch reads, high byte first (R53, R54). -/
def State.storeWordAtPc (s : State) (op : Word) : State := s.storeBytes s.pc.toNat (bytesOfWord op)

end Sys2Proof.Machine
end

