-- ==== Sys2Proof/Machine/Step.lean ====
section
/-!
DEFINITION. The machine's step: one STEP transaction whose draw is the free value, and where its next instruction stands.
-/
namespace Sys2Proof.Machine

/-- One STEP with a fresh draw (R71, R252; log 3). -/
def step (s : State) : Host.Outcome State Fault Refusal := stepWith (Config.freeRnd s.draws) s.countDraw

/-- The state with an instruction's word where the next step fetches it (log 4, 21): it stands for a program loaded by
LOAD_ROM. -/
def State.withFetchWord (s : State) (nbits w : Nat) : State := s.readyToFetch.storeWordAtPc (tableWord nbits w)

end Sys2Proof.Machine
end

