-- ==== Sys2Proof/Machine/Ports.lean ====
section
/-!
DEFINITION. The block's port contract (`10_state.md` R40, R41): every transaction as a function of the state, and a run of
a list of transactions in the host's order.
-/
namespace Sys2Proof.Machine

/-- `LOAD_ROM(bytes)` (R282): copied verbatim to 0x200 on, in either status, or refused whole. -/
def loadRom (bytes : List Byte) (s : State) : Result :=
  if bytes.length > Config.maxRom then .refused .romTooLarge
  else .next (s.storeBytes Config.programOrigin bytes)

/-- `KEY_EVENT(k, pressed)` (R251): in either status. -/
def keyEvent (k : Key) (pressed : Bool) (s : State) : State := s.setKey k pressed

/-- One timer's decrement: never below zero (R248). -/
def decTimer (b : Byte) : Byte := if b.toNat > 0 then BitVec.ofNat 8 (b.toNat - 1) else b

/-- `TICK` (R248): both timers, in either status. -/
def tick (s : State) : State := { s with dt := decTimer s.dt, st := decTimer s.st }

/-- TICK's beep (R249): ST is 1 before the decrement. -/
def State.beep (s : State) : Bool := s.st == 1

/-- `FB_READ` (R253): the 2048 pixels, bit `x + 64·y`. -/
def State.fbRead (s : State) : List Bool :=
  (List.range 2048).map (fun j => s.pixel (Fin.ofNat 64 (j % 64)) (Fin.ofNat 32 (j / 64)))

/-- The numeric code of a fault class (R240). -/
def Fault.code : Fault → Nat
  | .unknownInstruction _ _ => 1
  | .pcOutOfRange _ => 2
  | .stackOverflow _ => 3
  | .stackUnderflow _ => 4
  | .memOutOfRange _ => 5
  | .fontWrite _ => 6
  | .keyIndexOutOfRange _ => 7

/-- The transactions (R40). -/
inductive Transaction where
  | reset
  | loadRom (bytes : List Byte)
  | keyEvent (k : Key) (pressed : Bool)
  | step (rnd : Byte)
  | tick
  | fbRead
  | status
deriving DecidableEq, Repr

/-- What a transaction returns to the host (R40). -/
inductive Response where
  | none
  | refused (r : Refusal)
  | beep (b : Bool)
  | pixels (bits : List Bool)
  | status (s : Status)
deriving DecidableEq, Repr

/-- The state an outcome leaves behind: a refusal changes nothing (R282), and no transaction answers `fault` (log 2). -/
def stateAfter (s : State) : Result → State
  | .next t => t
  | .fault _ => s
  | .refused _ => s

/-- What LOAD_ROM tells the host. -/
def refusalOf : Result → Response
  | .next _ => .none
  | .fault _ => .none
  | .refused r => .refused r

/-- One transaction (R40, R42): a deterministic function of the state and its payload. -/
def transact (t : Transaction) (s : State) : State × Response :=
  match t with
  | .reset => (s.resetAll, .none)
  | .loadRom bytes => (stateAfter s (loadRom bytes s), refusalOf (loadRom bytes s))
  | .keyEvent k pressed => (keyEvent k pressed s, .none)
  | .step r => (stateAfter s (stepWith r s), .none)
  | .tick => (Machine.tick s, .beep s.beep)
  | .fbRead => (s, .pixels s.fbRead)
  | .status => (s, .status s.status)

/-- Any sequence of transactions, one after the other (R41), with the responses in order. -/
def runTransactions : List Transaction → State → State × List Response
  | [], s => (s, [])
  | t :: ts, s =>
    let first := transact t s
    let rest := runTransactions ts first.1
    (rest.1, first.2 :: rest.2)

/-- The source's recommended per-frame protocol (R287), the host's discipline: the frame's STEPs, one TICK, one FB_READ. -/
def frameTransactions (draws : List Byte) : List Transaction := draws.map Transaction.step ++ [.tick, .fbRead]

end Sys2Proof.Machine
end

