-- ==== Sys2Proof/Safety.lean ====
section
/-!
DEFINITION. What claims call a good state and a safe run.
-/
namespace Sys2Proof.Machine

/-- The address a fault record names as the faulting instruction's, where the record holds one (R240). -/
def Fault.addr? : Fault → Option Word
  | .unknownInstruction _ a => some a
  | .pcOutOfRange a => some a
  | .stackOverflow a => some a
  | .stackUnderflow a => some a
  | .memOutOfRange _ => none
  | .fontWrite _ => none
  | .keyIndexOutOfRange _ => none

/-- The invariant of the core. The memory has its canonical form; the parameters are legal; `pc` stays at or below the
0x10FE that R24 and R104 give; every return address is at or below the 0x1000 that R103 gives; and in a faulted state `pc`
is the address that the fault record names (R240). -/
structure State.Inv (s : State) : Prop where
  mem : Memory.wf s.cfg s.mem = true
  cfg : s.cfg.wf = true
  pc : s.pc.toNat ≤ 0x10FE
  stack : ∀ j : Fin 16, s.stack[j].toNat ≤ 0x1000
  fault : ∀ f a, s.status = .faulted f → f.addr? = some a → s.pc = a

/-- The font region reads as the font table (R58: under `FONT_WRITE_POLICY = FAULT` nothing writes it). -/
def State.FontIntact (s : State) : Prop := ∀ a, (h : a < 80) → s.readByte a = s.cfg.fontTable[a]

/-- A safe state: the run has not ended in a fault (R33, R288). -/
def State.Running (s : State) : Prop := s.status = .running

/-- States that transactions reach from a state (R41). -/
inductive Reaches : State → State → Prop where
  | refl (s : State) : Reaches s s
  | next (s u : State) (t : Transaction) : Reaches s u → Reaches s (transact t u).1

end Sys2Proof.Machine
end

