-- ==== Sys2Proof/Certificates/Slice0/Obligations.lean ====
section
/-!
DEFINITION. The statements for the provers. Where a statement says `t = { s with v := t.v }`, every field but the named ones,
memory, framebuffer, stack, timers, keys and status included, is as in `s`. The parameters of R5 are in `s.cfg`, so a
statement about every state holds for every setting of them; the draw of a STEP is `s.rnd` or the argument `r`, so it holds
for every draw (log 1, 3).
-/
open Sys2Proof Sys2Proof.Machine

/-! ### Reset and the font -/

/-- R35: the reset snapshot, the parameters at their defaults. -/
def Obligations.ResetSnapshot : Prop :=
  (∀ x, State.reset.getV x = 0) ∧ State.reset.i = 0 ∧ State.reset.pc.toNat = 0x200 ∧ State.reset.sp.val = 0 ∧
  (∀ j : Fin 16, State.reset.stack[j] = 0) ∧ State.reset.dt = 0 ∧ State.reset.st = 0 ∧
  (∀ k, State.reset.key k = false) ∧ (∀ x y, State.reset.pixel x y = false) ∧
  (∀ a, (h : a < 80) → State.reset.readByte a = Config.default.fontTable[a]) ∧
  (∀ a, 0x050 ≤ a → a ≤ 0xFFF → State.reset.readByte a = 0) ∧ State.reset.status = .running

/-- R280: RESET, in any status, gives every piece of state its reset value, no state survives, and it is the only way out of
FAULTED (the spec's decision D18). That RESET keeps the parameters, so that the font is the machine's, is the model's choice
(log 1). -/
def Obligations.ResetClearsEverything : Prop :=
  (∀ (s : State) (f : Fault) (tr : Transaction), s.status = .faulted f → (transact tr s).1.status = .running → tr = .reset) ∧
  ∀ s : State, ∃ t, transact .reset s = (t, .none) ∧
    (∀ x, t.getV x = 0) ∧ t.i = 0 ∧ t.pc.toNat = 0x200 ∧ t.sp.val = 0 ∧ (∀ j : Fin 16, t.stack[j] = 0) ∧
    t.dt = 0 ∧ t.st = 0 ∧ (∀ k, t.key k = false) ∧ (∀ x y, t.pixel x y = false) ∧
    (∀ a, (h : a < 80) → t.readByte a = s.cfg.fontTable[a]) ∧
    (∀ a, 0x050 ≤ a → a ≤ 0xFFF → t.readByte a = 0) ∧ t.status = .running ∧ t.cfg = s.cfg

/-- R59: the font table. Glyph 0 is fixed for every setting; the default holds the sixteen glyphs of the table, and only
bits 7:4 of a byte are used. The glyphs 1 to F are PRESUMED (log 13). -/
def Obligations.FontTableBytes : Prop :=
  (∀ c : Config, c.fontTable.toList.take 5 = [0xF0, 0x90, 0x90, 0x90, 0xF0]) ∧
  (Config.default.fontTable.toList.drop 5).take 40 =
    [0x20, 0x60, 0x20, 0x20, 0x70, 0xF0, 0x10, 0xF0, 0x80, 0xF0, 0xF0, 0x10, 0xF0, 0x10, 0xF0, 0x90, 0x90, 0xF0, 0x10, 0x10,
     0xF0, 0x80, 0xF0, 0x10, 0xF0, 0xF0, 0x80, 0xF0, 0x90, 0xF0, 0xF0, 0x10, 0x20, 0x40, 0x40, 0xF0, 0x90, 0xF0, 0x90, 0xF0] ∧
  Config.default.fontTable.toList.drop 45 =
    [0xF0, 0x90, 0xF0, 0x10, 0xF0, 0xF0, 0x90, 0xF0, 0x90, 0x90, 0xE0, 0x90, 0xE0, 0x90, 0xE0, 0xF0, 0x80, 0x80, 0x80, 0xF0,
     0xE0, 0x90, 0x90, 0x90, 0xE0, 0xF0, 0x80, 0xF0, 0x80, 0xF0, 0xF0, 0x80, 0xF0, 0x80, 0x80] ∧
  (∀ b ∈ Config.default.fontTable.toList, b.toNat % 16 = 0)

/-! ### Encoding -/

/-- R77, R81: words written out from the table decode to what they stand for, one or more of each format. -/
def Obligations.TableWordsDecode : Prop :=
  decodeTableWord 16 0b0000000000000000 = some .nop ∧ decodeTableWord 16 0b0000000011100000 = some .cls ∧
  decodeTableWord 16 0b0000000011101110 = some .ret ∧ decodeTableWord 16 0b0010001100000000 = some (.call 0x300) ∧
  decodeTableWord 16 0b0110000000000101 = some (.ldKk 0 0x05) ∧ decodeTableWord 16 0b1000101010110110 = some (.shr 0xA 0xB) ∧
  decodeTableWord 16 0b1001000100100000 = some (.sneVy 1 2) ∧ decodeTableWord 16 0b1101001110100101 = some (.drw 3 0xA 5) ∧
  decodeTableWord 16 0b1110001010011110 = some (.skp 2) ∧ decodeTableWord 16 0b1111001101010101 = some (.storeBlock 3) ∧
  decodeTableWord 16 0b0101000100100001 = none ∧ decodeTableWord 16 0b1111000000011111 = none

/-- Decoding the two bytes of an encoded well-formed instruction gives it back and leaves the rest of the bytes (R70, R81),
for every instruction, operand and `ZERO_OPCODE_MODE`. -/
def Obligations.DecodeOfEncode : Prop :=
  ∀ (mode : ZeroOpcodeMode) (i : Instr) (rest : List Byte), i.wf mode = true →
    decodeBytes mode (bytesOfWord (encode i) ++ rest) = .ok (i, rest)

/-- A word that decodes is the encoding of its instruction, which is well formed: each legal word has one meaning. The only
words that lose bits are the ignored ones that `SYS_IGNORE` turns into NOP (R100). -/
def Obligations.EncodeOfDecode : Prop :=
  ∀ (mode : ZeroOpcodeMode) (op : Word) (i : Instr), decodeWord mode op = .ok i →
    i.wf mode = true ∧ (i ≠ .nop ∨ mode ≠ .sysIgnore → encode i = op)

/-- R76: dispatch is the opcode map. Two rows never match one word; a word decodes exactly when a row matches it, and to the
instruction of that row. -/
def Obligations.DispatchIsTheOpcodeMap : Prop :=
  (∀ (op : Word) (r r' : OpRow), r ∈ opcodeRows → r' ∈ opcodeRows → r.matchesWord op = true → r'.matchesWord op = true →
    r = r') ∧
  (∀ (op : Word) (r : OpRow), r ∈ opcodeRows → r.matchesWord op = true →
    ∃ i, decodeWord .nop0000 op = .ok i ∧ i.rowNum = r.num) ∧
  (∀ (op : Word) (i : Instr), decodeWord .nop0000 op = .ok i →
    ∃ r ∈ opcodeRows, r.matchesWord op = true ∧ r.num = i.rowNum)

/-- R78: the illegal words, family by family, in each `ZERO_OPCODE_MODE`. -/
def Obligations.IllegalWords : Prop :=
  ∀ (mode : ZeroOpcodeMode) (op : Word), decodeWord mode op = .error (.unknownInstruction op) ↔
    (op.toNat / 0x1000 = 0x0 ∧ op ≠ 0x00E0 ∧ op ≠ 0x00EE ∧
      ((mode = .nop0000 ∧ op ≠ 0x0000) ∨ mode = .fault)) ∨
    (op.toNat / 0x1000 = 0x5 ∧ op.toNat % 16 ≠ 0) ∨
    (op.toNat / 0x1000 = 0x8 ∧ op.toNat % 16 ∈ [0x8, 0x9, 0xA, 0xB, 0xC, 0xD, 0xF]) ∨
    (op.toNat / 0x1000 = 0x9 ∧ op.toNat % 16 ≠ 0) ∨
    (op.toNat / 0x1000 = 0xE ∧ op.toNat % 256 ∉ [0x9E, 0xA1]) ∨
    (op.toNat / 0x1000 = 0xF ∧ op.toNat % 256 ∉ [0x07, 0x0A, 0x15, 0x18, 0x1E, 0x29, 0x33, 0x55, 0x65])

/-! ### The step -/

/-- R53, R54: the fetch reads two bytes, high byte first, when both are in the arena, else PcOutOfRange (the spec's decision
D8, log 14). An odd `pc` is legal (D9, log 15). -/
def Obligations.FetchIsBigEndian : Prop :=
  ∀ s : State,
    (0xFFE < s.pc.toNat → s.fetchWord = .error (.pcOutOfRange s.pc)) ∧
    (s.pc.toNat ≤ 0xFFE → ∃ op, s.fetchWord = .ok op ∧
      op.toNat = (s.readByte s.pc.toNat).toNat * 256 + (s.readByte (s.pc.toNat + 1)).toNat)

/-- A running step whose word decodes to `i` is `exec` of `i` at the state whose `pc` is advanced by 2 and whose `rnd` input
holds the draw; `step` also counts the draw (R71; log 3). -/
def Obligations.StepRunsTheDecodedInstruction : Prop :=
  ∀ (s : State) (i : Instr), s.status = .running → s.pc.toNat ≤ 0xFFE →
    decodeWord s.cfg.zeroOpcodeMode (s.readByte s.pc.toNat ++ s.readByte (s.pc.toNat + 1)) = .ok i →
    (∀ r, stepWith r s = exec i { s with pc := s.pc + 2, rnd := r }) ∧
    step s = exec i { s with pc := s.pc + 2, rnd := Config.freeRnd s.draws, draws := s.draws + 1 }

/-- A running step that cannot fetch, or whose word matches no row, records that fault and changes nothing else (R53, R78,
R241; the spec's decisions D8, D18). -/
def Obligations.FetchAndDecodeFaults : Prop :=
  ∀ (s : State) (r : Byte), s.status = .running →
    (0xFFE < s.pc.toNat → stepWith r s = .next { s with rnd := r, status := .faulted (.pcOutOfRange s.pc) }) ∧
    (∀ (op : Word) (e : DecodeError), s.pc.toNat ≤ 0xFFE → op = s.readByte s.pc.toNat ++ s.readByte (s.pc.toNat + 1) →
      decodeWord s.cfg.zeroOpcodeMode op = .error e →
      stepWith r s = .next { s with rnd := r, status := .faulted (.unknownInstruction op s.pc) })

/-- Every step, and every STEP with any draw, answers a next state: the machine never refuses, and a fault is taken as a
next state (R42, R241, R242; the model's reading, log 2). -/
def Obligations.EveryStepAnswersANextState : Prop :=
  ∀ s : State, (∃ t, step s = .next t) ∧ ∀ r, ∃ t, stepWith r s = .next t

/-- R241 (the spec's decision D18; log 2, 19): a fault is precise. A running STEP that ends FAULTED has changed the status
and nothing else: `pc` is the address it fetched from, and registers, `I`, stack, memory, framebuffer, timers and keys are
those of before the step. -/
def Obligations.FaultsArePrecise : Prop :=
  ∀ (s t : State) (f : Fault), s.status = .running → t.status = .faulted f →
    (∀ r, stepWith r s = .next t → t = { s with rnd := r, status := .faulted f }) ∧
    (step s = .next t → t = { s with rnd := Config.freeRnd s.draws, draws := s.draws + 1, status := .faulted f })

/-- R242 (the spec's decision D18): while FAULTED a STEP changes nothing at all, for any draw; TICK, KEY_EVENT and LOAD_ROM
leave the record, TICK and KEY_EVENT still act, and RESET clears it. -/
def Obligations.FaultsAreTerminal : Prop :=
  ∀ (s : State) (f : Fault), s.status = .faulted f →
    step s = .next s ∧ (∀ r, transact (.step r) s = (s, .none)) ∧
    (transact .tick s).1 = { s with dt := decTimer s.dt, st := decTimer s.st } ∧
    (∀ k p, (transact (.keyEvent k p) s).1 = { s with keys := s.keys.set k p }) ∧
    (∀ bytes, (transact (.loadRom bytes) s).1.status = .faulted f) ∧
    (transact .reset s).1.status = .running

/-- R240, R243 (the spec's decisions D6 to D8, D10, D11, D19; log 14): what faults, with which record, in which priority.
After a running STEP the status is FAULTED(f) exactly when one of these holds; `pc` is then the address `a`; the codes are 1
to 7. -/
def Obligations.FaultClassesAndRecords : Prop :=
  (∀ (s t : State) (r : Byte) (f : Fault), s.status = .running → stepWith r s = .next t →
    (t.status = .faulted f ↔
      (0xFFE < s.pc.toNat ∧ f = .pcOutOfRange s.pc) ∨
      (s.pc.toNat ≤ 0xFFE ∧ ∃ op : Word, op = s.readByte s.pc.toNat ++ s.readByte (s.pc.toNat + 1) ∧
        (((∃ e, decodeWord s.cfg.zeroOpcodeMode op = .error e) ∧ f = .unknownInstruction op s.pc) ∨
        ∃ i, decodeWord s.cfg.zeroOpcodeMode op = .ok i ∧
          ((∃ nnn, i = .call nnn ∧ s.sp.val = 16 ∧ f = .stackOverflow s.pc) ∨
          (i = .ret ∧ s.sp.val = 0 ∧ f = .stackUnderflow s.pc) ∨
          (∃ x y n, i = .drw x y n ∧ 0 < n ∧ 0x1000 < s.i.toNat + n ∧ f = .memOutOfRange (max s.i.toNat 0x1000)) ∨
          (∃ x, i = .loadBlock x ∧ 0xFFF < s.i.toNat + x.val ∧ f = .memOutOfRange (max s.i.toNat 0x1000)) ∨
          (∃ last, ((∃ x, i = .ldB x ∧ last = 2) ∨ (∃ x, i = .storeBlock x ∧ last = x.val)) ∧
            ((0xFFF < s.i.toNat + last ∧ f = .memOutOfRange (max s.i.toNat 0x1000)) ∨
            (s.i.toNat + last ≤ 0xFFF ∧ s.i.toNat ≤ 0x04F ∧ s.cfg.fontWritePolicy = .fault ∧
              f = .fontWrite s.i.toNat))) ∨
          (∃ x, (i = .skp x ∨ i = .sknp x) ∧ 15 < (s.getV x).toNat ∧ f = .keyIndexOutOfRange (s.getV x))))))) ∧
  (∀ (s t : State) (r : Byte) (f : Fault), s.status = .running → stepWith r s = .next t → t.status = .faulted f →
    t.pc = s.pc) ∧
  (∀ op a n k, (Fault.unknownInstruction op a).code = 1 ∧ (Fault.pcOutOfRange a).code = 2 ∧ (Fault.stackOverflow a).code = 3 ∧
    (Fault.stackUnderflow a).code = 4 ∧ (Fault.memOutOfRange n).code = 5 ∧ (Fault.fontWrite n).code = 6 ∧
    (Fault.keyIndexOutOfRange k).code = 7)

/-- R252 (the spec's decision D22; log 3): only RND reads the draw. A running STEP of any other word does the same for every
draw. -/
def Obligations.OnlyRndReadsTheDraw : Prop :=
  ∀ (s t : State) (r r' : Byte), s.status = .running → (∀ x kk, s.fetchDecode ≠ .ok (.rnd x kk)) →
    stepWith r s = .next t → stepWith r' s = .next { t with rnd := r' }

/-! ### Control flow (`pc` at entry is `a + 2`) -/

/-- R100 (the spec's decision D3; log 8): NOP does nothing; under `FAULT` 0x0000 is illegal; under `SYS_IGNORE` every 0nnn
but 00E0 and 00EE is NOP. -/
def Obligations.NopDoesNothing : Prop :=
  (∀ s : State, exec .nop s = .next s) ∧ decodeWord .nop0000 0x0000 = .ok .nop ∧
  decodeWord .fault 0x0000 = .error (.unknownInstruction 0x0000) ∧
  (∀ op : Word, op.toNat < 0x1000 → op ≠ 0x00E0 → op ≠ 0x00EE → decodeWord .sysIgnore op = .ok .nop)

/-- R101, R104: the jumps set `pc` to nnn, and to V0 + nnn without wrapping; nothing else changes, and nothing faults. A
target above 0xFFE faults at the next STEP (the spec's decision D8; log 14), which is taken as a next state (the model's
reading, log 2). -/
def Obligations.JumpsSetPc : Prop :=
  ∀ (s : State) (nnn : Addr12) (i : Instr) (target : Nat),
    (i = .jp nnn ∧ target = nnn.toNat) ∨ (i = .jpV0 nnn ∧ target = (s.getV 0).toNat + nnn.toNat) →
    ∃ t, exec i s = .next t ∧ t.pc.toNat = target ∧ t = { s with pc := t.pc } ∧
      (s.status = .running → 0xFFE < target → ∀ r, stepWith r t =
        .next { t with rnd := r, status := .faulted (.pcOutOfRange (BitVec.ofNat 16 target)) })

/-- R105 to R109: the skips add exactly 2 to `pc` when their condition holds, and change nothing else. -/
def Obligations.SkipsAddTwo : Prop :=
  ∀ (s : State) (x y : Reg) (kk : Byte),
    (∃ t, exec (.seKk x kk) s = .next t ∧ t = { s with pc := t.pc } ∧
      (s.getV x = kk → t.pc = s.pc + 2) ∧ (s.getV x ≠ kk → t.pc = s.pc)) ∧
    (∃ t, exec (.sneKk x kk) s = .next t ∧ t = { s with pc := t.pc } ∧
      (s.getV x ≠ kk → t.pc = s.pc + 2) ∧ (s.getV x = kk → t.pc = s.pc)) ∧
    (∃ t, exec (.seVy x y) s = .next t ∧ t = { s with pc := t.pc } ∧
      (s.getV x = s.getV y → t.pc = s.pc + 2) ∧ (s.getV x ≠ s.getV y → t.pc = s.pc)) ∧
    (∃ t, exec (.sneVy x y) s = .next t ∧ t = { s with pc := t.pc } ∧
      (s.getV x ≠ s.getV y → t.pc = s.pc + 2) ∧ (s.getV x = s.getV y → t.pc = s.pc))

/-- R102: CALL pushes `pc` and jumps; with a full stack it faults and changes nothing but the status, `pc` back at `a` (R27,
the spec's decisions D6 and D18; log 2, 14). -/
def Obligations.CallPushesAndJumps : Prop :=
  ∀ (s : State) (nnn : Addr12),
    (s.sp.val < 16 → ∃ t, exec (.call nnn) s = .next t ∧ t.pc.toNat = nnn.toNat ∧ t.sp.val = s.sp.val + 1 ∧
      (∀ j : Fin 16, (j.val = s.sp.val → t.stack[j] = s.pc) ∧ (j.val ≠ s.sp.val → t.stack[j] = s.stack[j])) ∧
      t = { s with pc := t.pc, sp := t.sp, stack := t.stack }) ∧
    (s.sp.val = 16 → exec (.call nnn) s =
      .next { s with pc := s.pc - 2, status := .faulted (.stackOverflow (s.pc - 2)) })

/-- R103 (and R27, the spec's decision D6): RET pops into `pc`; the popped slot keeps its value; with an empty stack it
faults. -/
def Obligations.RetPopsIntoPc : Prop :=
  ∀ s : State,
    (∀ j : Fin 16, s.sp.val = j.val + 1 → ∃ t, exec .ret s = .next t ∧ t.pc = s.stack[j] ∧ t.sp.val = j.val ∧
      t = { s with pc := t.pc, sp := t.sp }) ∧
    (s.sp.val = 0 → exec .ret s = .next { s with pc := s.pc - 2, status := .faulted (.stackUnderflow (s.pc - 2)) })

/-- R110, which the spec derives from R102 and R103: a CALL at `a` and a RET at its target, with no other stack operation
between them, leave `pc = a + 2` and the stack pointer of before the call. `u` is any state with the stack the CALL left. -/
def Obligations.CallThenRetReturns : Prop :=
  ∀ (s t u : State) (nnn : Addr12), s.sp.val < 16 → exec (.call nnn) s = .next t → u.sp = t.sp → u.stack = t.stack →
    ∃ w, exec .ret u = .next w ∧ w.pc = s.pc ∧ w.sp = s.sp

/-! ### ALU -/

/-- R130, R132 to R135: load, copy and the bitwise operations write Vx and nothing else; no flag. -/
def Obligations.LoadsAndLogicWriteVx : Prop :=
  ∀ (s : State) (x y : Reg) (i : Instr) (result : Byte),
    ((∃ kk, i = .ldKk x kk ∧ result = kk) ∨ (i = .ldVy x y ∧ result = s.getV y) ∨
      (i = .orVy x y ∧ result = s.getV x ||| s.getV y) ∨ (i = .andVy x y ∧ result = s.getV x &&& s.getV y) ∨
      (i = .xorVy x y ∧ result = s.getV x ^^^ s.getV y)) →
    ∃ t, exec i s = .next t ∧ t.getV x = result ∧ (∀ z, z ≠ x → t.getV z = s.getV z) ∧ t = { s with v := t.v }

/-- R131: the immediate add, modulo 256, writes Vx and no flag, even on a carry. -/
def Obligations.AddImmediateWraps : Prop :=
  ∀ (s : State) (x : Reg) (kk : Byte), ∃ t, exec (.addKk x kk) s = .next t ∧
    (t.getV x).toNat = ((s.getV x).toNat + kk.toNat) % 256 ∧ (∀ z, z ≠ x → t.getV z = s.getV z) ∧ t = { s with v := t.v }

/-- R136 (with R142 and `FLAG_WRITE_LAST`, the spec's decision D5, log 10): the sum modulo 256 in Vx, the carry in VF; when
Vx is VF, the one written last stays. -/
def Obligations.AddSetsCarry : Prop :=
  ∀ (s : State) (x y : Reg) (sum carry : Nat), sum = (s.getV x).toNat + (s.getV y).toNat →
    carry = (if 256 ≤ sum then 1 else 0) →
    ∃ t, exec (.addVy x y) s = .next t ∧ t = { s with v := t.v } ∧ (∀ z, z ≠ x → z ≠ 15 → t.getV z = s.getV z) ∧
      (x ≠ 15 → (t.getV x).toNat = sum % 256 ∧ (t.getV 15).toNat = carry) ∧
      (x = 15 → s.cfg.flagWriteLast = true → (t.getV 15).toNat = carry) ∧
      (x = 15 → s.cfg.flagWriteLast = false → (t.getV 15).toNat = sum % 256)

/-- R137, R139 (with R142, the spec's decision D5; log 7, 10): both subtractions, modulo 256, VF is not-borrow: 1 iff
minuend ≥ subtrahend. -/
def Obligations.SubtractSetsNotBorrow : Prop :=
  ∀ (s : State) (x y : Reg) (i : Instr) (minuend subtrahend flag : Nat),
    ((i = .subVy x y ∧ minuend = (s.getV x).toNat ∧ subtrahend = (s.getV y).toNat) ∨
      (i = .subnVy x y ∧ minuend = (s.getV y).toNat ∧ subtrahend = (s.getV x).toNat)) →
    flag = (if subtrahend ≤ minuend then 1 else 0) →
    ∃ t, exec i s = .next t ∧ t = { s with v := t.v } ∧ (∀ z, z ≠ x → z ≠ 15 → t.getV z = s.getV z) ∧
      (x ≠ 15 → (t.getV x).toNat = (minuend + 256 - subtrahend) % 256 ∧ (t.getV 15).toNat = flag) ∧
      (x = 15 → s.cfg.flagWriteLast = true → (t.getV 15).toNat = flag) ∧
      (x = 15 → s.cfg.flagWriteLast = false → (t.getV 15).toNat = (minuend + 256 - subtrahend) % 256)

/-- R138, R140 (with R142; the spec's decisions D4, D5; log 9, 10): the shifts by one of Vx, or of Vy under
`SHIFT_READS_VY`; VF is the bit shifted out. -/
def Obligations.ShiftsDropABitIntoVf : Prop :=
  ∀ (s : State) (x y : Reg) (i : Instr) (src result flag : Nat),
    src = (if s.cfg.shiftReadsVy = true then (s.getV y).toNat else (s.getV x).toNat) →
    ((i = .shr x y ∧ result = src / 2 ∧ flag = src % 2) ∨ (i = .shl x y ∧ result = src * 2 % 256 ∧ flag = src / 128)) →
    ∃ t, exec i s = .next t ∧ t = { s with v := t.v } ∧ (∀ z, z ≠ x → z ≠ 15 → t.getV z = s.getV z) ∧
      (x ≠ 15 → (t.getV x).toNat = result ∧ (t.getV 15).toNat = flag) ∧
      (x = 15 → s.cfg.flagWriteLast = true → (t.getV 15).toNat = flag) ∧
      (x = 15 → s.cfg.flagWriteLast = false → (t.getV 15).toNat = result)

/-- The y field of the shifts is ignored unless `SHIFT_READS_VY` (R75, R79; log 17). -/
def Obligations.ShiftsIgnoreY : Prop :=
  ∀ (s : State) (x y y' : Reg), s.cfg.shiftReadsVy = false →
    exec (.shr x y) s = exec (.shr x y') s ∧ exec (.shl x y) s = exec (.shl x y') s

/-- R141: RND stores the draw under the mask kk, for every draw, and changes nothing else; a STEP of it uses that STEP's
draw. -/
def Obligations.RndMasksTheDraw : Prop :=
  (∀ (s : State) (x : Reg) (kk : Byte), ∃ t, exec (.rnd x kk) s = .next t ∧ t.getV x = s.rnd &&& kk ∧
    (∀ z, z ≠ x → t.getV z = s.getV z) ∧ t = { s with v := t.v }) ∧
  (∀ (s : State) (x : Reg) (kk r : Byte), s.status = .running → s.fetchDecode = .ok (.rnd x kk) →
    ∃ t, stepWith r s = .next t ∧ t.getV x = r &&& kk ∧ (∀ z, z ≠ x → t.getV z = s.getV z) ∧
      t = { s with v := t.v, pc := s.pc + 2, rnd := r })

/-! ### Draw -/

/-- R170: CLS makes every pixel false and changes nothing else, VF included. -/
def Obligations.ClearScreenIsTotal : Prop :=
  ∀ s : State, ∃ t, exec .cls s = .next t ∧ (∀ u w, t.pixel u w = false) ∧ t = { s with fb := t.fb }

/-- R171 (the spec's decisions D7, D16, D17; log 16, 27): DRW. When the N bytes from `I` are in the arena (any `I` for N =
0), a pixel changes exactly when a set bit of the sprite lands on it, both axes wrapped; VF is 1 iff some pixel was lit
before and is unlit after, else 0; nothing else changes. Otherwise MemOutOfRange at the lowest failing address, and nothing
but the status changes. -/
def Obligations.DrawXorsTheSprite : Prop :=
  ∀ (s : State) (x y : Reg) (n : Nat), n ≤ 15 →
    (n = 0 ∨ s.i.toNat + n ≤ 0x1000 → ∃ t, exec (.drw x y n) s = .next t ∧
      (∀ u w, t.pixel u w ≠ s.pixel u w ↔ ∃ r b, r < n ∧ b < 8 ∧ (s.readByte (s.i.toNat + r)).getLsbD (7 - b) = true ∧
        u.val = ((s.getV x).toNat + b) % 64 ∧ w.val = ((s.getV y).toNat + r) % 32) ∧
      ((∃ u w, s.pixel u w = true ∧ t.pixel u w = false) → t.getV 15 = 1) ∧
      (¬(∃ u w, s.pixel u w = true ∧ t.pixel u w = false) → t.getV 15 = 0) ∧
      (∀ z, z ≠ 15 → t.getV z = s.getV z) ∧ t = { s with v := t.v, fb := t.fb }) ∧
    (n ≠ 0 → 0x1000 < s.i.toNat + n → exec (.drw x y n) s =
      .next { s with pc := s.pc - 2, status := .faulted (.memOutOfRange (max s.i.toNat 0x1000)) })

/-- Drawing the same sprite twice at the same place restores the framebuffer (R171): between the draws the coordinates are
as before, which matters when Vx or Vy is VF. -/
def Obligations.DrawTwiceRestores : Prop :=
  ∀ (s t u w : State) (x y : Reg) (n : Nat), n ≤ 15 → n = 0 ∨ s.i.toNat + n ≤ 0x1000 →
    exec (.drw x y n) s = .next t → u.getV x = s.getV x → u.getV y = s.getV y →
    u = { t with v := u.v, pc := u.pc } → exec (.drw x y n) u = .next w → w.fb = s.fb

/-! ### Keypad -/

/-- R190, R191 (the spec's decision D11; log 14): SKP and SKNP skip on the flag of the key Vx names; above 15 they fault
with the value. -/
def Obligations.KeySkipsTestTheKey : Prop :=
  ∀ (s : State) (x : Reg),
    (∀ k : Key, k.val = (s.getV x).toNat →
      (∃ t, exec (.skp x) s = .next t ∧ t = { s with pc := t.pc } ∧
        (s.key k = true → t.pc = s.pc + 2) ∧ (s.key k = false → t.pc = s.pc)) ∧
      (∃ t, exec (.sknp x) s = .next t ∧ t = { s with pc := t.pc } ∧
        (s.key k = false → t.pc = s.pc + 2) ∧ (s.key k = true → t.pc = s.pc))) ∧
    (15 < (s.getV x).toNat → ∀ i, i = .skp x ∨ i = .sknp x →
      exec i s = .next { s with pc := s.pc - 2, status := .faulted (.keyIndexOutOfRange (s.getV x)) })

/-- R192 (the spec's decision D12; log 11, 23): with no key pressed `pc` goes back by 2 and nothing else changes; else Vx
gets the first pressed key in the scan order, which is the lowest in the default ascending order, and nothing else changes.
-/
def Obligations.KeyWaitPolls : Prop :=
  ∀ (s : State) (x : Reg),
    ((∀ k, s.key k = false) → exec (.ldVxK x) s = .next { s with pc := s.pc - 2 }) ∧
    (s.cfg.wf = true → (∃ k, s.key k = true) → ∃ t k, exec (.ldVxK x) s = .next t ∧ s.key k = true ∧
      (∀ j, s.cfg.keyScanOrder.idxOf j < s.cfg.keyScanOrder.idxOf k → s.key j = false) ∧
      (s.cfg.keyScanOrder = Config.default.keyScanOrder → ∀ j, j < k → s.key j = false) ∧
      (t.getV x).toNat = k.val ∧ (∀ z, z ≠ x → t.getV z = s.getV z) ∧ t = { s with v := t.v })

/-- The core awaits a key exactly when it is running and the word at `pc` decodes as LD Vx, K (R34); while no key is
pressed, a STEP then leaves the whole state, for every draw (R192, R256; the spec's decision D13). -/
def Obligations.AwaitingKeyWaits : Prop :=
  (∀ s : State, s.awaitingKey = true ↔ s.status = .running ∧ ∃ x, s.fetchDecode = .ok (.ldVxK x)) ∧
  (∀ (s : State) (r : Byte), s.awaitingKey = true → (∀ k, s.key k = false) → stepWith r s = .next { s with rnd := r })

/-! ### Timers, index register, memory -/

/-- R210 to R212: the timer instructions copy between Vx and the timer, and change nothing else. No STEP returns a beep. -/
def Obligations.TimerAccess : Prop :=
  ∀ (s : State) (x : Reg),
    (∃ t, exec (.ldVxDt x) s = .next t ∧ t.getV x = s.dt ∧ (∀ z, z ≠ x → t.getV z = s.getV z) ∧ t = { s with v := t.v }) ∧
    (∃ t, exec (.ldDtVx x) s = .next t ∧ t.dt = s.getV x ∧ t = { s with dt := t.dt }) ∧
    (∃ t, exec (.ldStVx x) s = .next t ∧ t.st = s.getV x ∧ t = { s with st := t.st }) ∧
    (∀ r, (transact (.step r) s).2 = .none)

/-- R213 to R215 (the spec's decisions D2, D15; log 16): the index register instructions; no flag, nothing else changes. -/
def Obligations.IndexRegisterOps : Prop :=
  ∀ (s : State) (x : Reg) (nnn : Addr12),
    (∃ t, exec (.ldI nnn) s = .next t ∧ t.i.toNat = nnn.toNat ∧ t = { s with i := t.i }) ∧
    (∃ t, exec (.addI x) s = .next t ∧ t.i.toNat = (s.i.toNat + (s.getV x).toNat) % 65536 ∧ t = { s with i := t.i }) ∧
    (∃ t, exec (.ldF x) s = .next t ∧ t.i.toNat = (s.getV x).toNat % 16 * 5 ∧ t = { s with i := t.i })

/-- R216 (the spec's decisions D7, D10, D14; log 5, 14, 16): LD B stores the three decimal digits at I, I+1, I+2 and changes
nothing else; its faults and their records. The memory's canonical form is a premise; `StepKeepsInvariant` says it is kept.
-/
def Obligations.DecimalDigitsStored : Prop :=
  ∀ (s : State) (x : Reg), Memory.wf s.cfg s.mem = true →
    (s.i.toNat + 2 ≤ 0xFFF → (0x04F < s.i.toNat ∨ s.cfg.fontWritePolicy = .allow) →
      ∃ t, exec (.ldB x) s = .next t ∧ t = { s with mem := t.mem } ∧
        (t.readByte s.i.toNat).toNat = (s.getV x).toNat / 100 ∧
        (t.readByte (s.i.toNat + 1)).toNat = (s.getV x).toNat / 10 % 10 ∧
        (t.readByte (s.i.toNat + 2)).toNat = (s.getV x).toNat % 10 ∧
        (∀ a, a < s.i.toNat ∨ s.i.toNat + 2 < a → t.readByte a = s.readByte a)) ∧
    (0xFFF < s.i.toNat + 2 → exec (.ldB x) s =
      .next { s with pc := s.pc - 2, status := .faulted (.memOutOfRange (max s.i.toNat 0x1000)) }) ∧
    (s.i.toNat ≤ 0x04F → s.cfg.fontWritePolicy = .fault → exec (.ldB x) s =
      .next { s with pc := s.pc - 2, status := .faulted (.fontWrite s.i.toNat) })

/-- R217 (the spec's decisions D7, D10, D14): LD [I], Vx stores V0..VX from I on, ascending, and changes nothing else, `I`
included; its faults and their records. -/
def Obligations.BlockStoreWritesMemory : Prop :=
  ∀ (s : State) (x : Reg), Memory.wf s.cfg s.mem = true →
    (s.i.toNat + x.val ≤ 0xFFF → (0x04F < s.i.toNat ∨ s.cfg.fontWritePolicy = .allow) →
      ∃ t, exec (.storeBlock x) s = .next t ∧ t = { s with mem := t.mem } ∧
        (∀ k : Reg, k ≤ x → t.readByte (s.i.toNat + k.val) = s.getV k) ∧
        (∀ a, a < s.i.toNat ∨ s.i.toNat + x.val < a → t.readByte a = s.readByte a)) ∧
    (0xFFF < s.i.toNat + x.val → exec (.storeBlock x) s =
      .next { s with pc := s.pc - 2, status := .faulted (.memOutOfRange (max s.i.toNat 0x1000)) }) ∧
    (s.i.toNat ≤ 0x04F → s.cfg.fontWritePolicy = .fault → exec (.storeBlock x) s =
      .next { s with pc := s.pc - 2, status := .faulted (.fontWrite s.i.toNat) })

/-- R218 (the spec's decisions D7, D14): LD Vx, [I] loads V0..VX from I on and changes nothing else, `I` and memory
included; out of range it faults and writes no register. -/
def Obligations.BlockLoadReadsMemory : Prop :=
  ∀ (s : State) (x : Reg),
    (s.i.toNat + x.val ≤ 0xFFF → ∃ t, exec (.loadBlock x) s = .next t ∧ t = { s with v := t.v } ∧
      (∀ k : Reg, k ≤ x → t.getV k = s.readByte (s.i.toNat + k.val)) ∧ (∀ z : Reg, x < z → t.getV z = s.getV z)) ∧
    (0xFFF < s.i.toNat + x.val → exec (.loadBlock x) s =
      .next { s with pc := s.pc - 2, status := .faulted (.memOutOfRange (max s.i.toNat 0x1000)) })

/-- A block stored and loaded back gives the registers their values again, whatever happened to the registers in between
(R217, R218; vector IM28). -/
def Obligations.BlockStoreThenLoad : Prop :=
  ∀ (s t u w : State) (x : Reg), Memory.wf s.cfg s.mem = true → s.i.toNat + x.val ≤ 0xFFF →
    (0x04F < s.i.toNat ∨ s.cfg.fontWritePolicy = .allow) → exec (.storeBlock x) s = .next t →
    u = { t with v := u.v, pc := u.pc } → exec (.loadBlock x) u = .next w → ∀ k : Reg, k ≤ x → w.getV k = s.getV k

/-- A store into code is seen by the next fetch of that address (R62, which the spec derives from R53 and R60): the fetch at
any stored pair of bytes reads the two registers, the lower one as the high byte. -/
def Obligations.StoreIsSeenByTheFetch : Prop :=
  ∀ (s t u : State) (x k l : Reg), Memory.wf s.cfg s.mem = true → s.i.toNat + x.val ≤ 0xFFF →
    (0x04F < s.i.toNat ∨ s.cfg.fontWritePolicy = .allow) → exec (.storeBlock x) s = .next t →
    l.val = k.val + 1 → l ≤ x → u.mem = t.mem → u.cfg = t.cfg → u.pc.toNat = s.i.toNat + k.val →
    u.fetchWord = .ok (s.getV k ++ s.getV l)

/-! ### Ports -/

/-- R248, R249: TICK decrements both timers, never below zero, and changes nothing else; it returns a beep exactly when ST
was 1. -/
def Obligations.TickDecrementsBothTimers : Prop :=
  ∀ s : State, ∃ t beep, transact .tick s = (t, .beep beep) ∧ t.dt.toNat = s.dt.toNat - 1 ∧ t.st.toNat = s.st.toNat - 1 ∧
    (beep = true ↔ s.st.toNat = 1) ∧ t = { s with dt := t.dt, st := t.st }

/-- R282 (the spec's decision D20; log 22): LOAD_ROM copies the bytes to 0x200 on and changes nothing else, in either
status; more than 3584 bytes are refused whole. -/
def Obligations.LoadRomCopiesVerbatim : Prop :=
  ∀ (s : State) (bytes : List Byte), Memory.wf s.cfg s.mem = true →
    (bytes.length ≤ 3584 → ∃ t, transact (.loadRom bytes) s = (t, .none) ∧ t = { s with mem := t.mem } ∧
      (∀ j, (h : j < bytes.length) → t.readByte (0x200 + j) = bytes[j]) ∧
      (∀ a, a < 0x200 ∨ 0x200 + bytes.length ≤ a → t.readByte a = s.readByte a)) ∧
    (3584 < bytes.length → transact (.loadRom bytes) s = (s, .refused .romTooLarge))

/-- R251, R253, R33: KEY_EVENT sets one key flag and nothing else; FB_READ returns the 2048 pixels, bit x + 64·y, and STATUS
the status, without a change. -/
def Obligations.KeyEventAndReadouts : Prop :=
  ∀ s : State,
    (∀ k p, ∃ t, transact (.keyEvent k p) s = (t, .none) ∧ t.key k = p ∧ (∀ j, j ≠ k → t.key j = s.key j) ∧
      t = { s with keys := t.keys }) ∧
    (∃ bits, transact .fbRead s = (s, .pixels bits) ∧ bits.length = 2048 ∧
      ∀ (u : Fin 64) (w : Fin 32), bits[u.val + 64 * w.val]? = some (s.pixel u w)) ∧
    transact .status s = (s, .status s.status)

/-! ### Invariants and whole-machine rules -/

/-- The reset state meets the invariant and its font region is intact. -/
def Obligations.ResetMeetsInvariant : Prop := State.reset.Inv ∧ State.reset.FontIntact

/-- Every step keeps the invariant: canonical memory, legal parameters, `pc` at most 0x10FE, return addresses at most
0x1000, and a fault record that names `pc` (R24, R103, R240). -/
def Obligations.StepKeepsInvariant : Prop := ∀ s t : State, s.Inv → step s = .next t → t.Inv

/-- Every STEP, TICK, KEY_EVENT, LOAD_ROM, RESET and readout keeps the canonical memory, the parameters, the bound on `pc`
and the bound on the return addresses, so any sequence of transactions does. -/
def Obligations.TransactionsKeepInvariant : Prop := ∀ s t : State, s.Inv → Reaches s t → t.Inv

/-- R58 (the spec's decision D10, log 12): under `FONT_WRITE_POLICY = FAULT` nothing writes the font region: no transaction
of any kind changes what it reads as. -/
def Obligations.FontIsNeverWritten : Prop :=
  ∀ s t : State, s.cfg.fontWritePolicy = .fault → s.FontIntact → Reaches s t → t.FontIntact

/-- R29 and log 1: no step writes a key flag or a parameter. -/
def Obligations.StepsNeverWriteKeys : Prop :=
  ∀ s t : State, (step s = .next t ∨ ∃ r, stepWith r s = .next t) → t.keys = s.keys ∧ t.cfg = s.cfg

/-- R28: instruction execution changes a timer only through LD DT, Vx and LD ST, Vx. -/
def Obligations.TimersOnlySetByTheirOpcodes : Prop :=
  ∀ s t : State, (step s = .next t ∨ ∃ r, stepWith r s = .next t) →
    (t.dt ≠ s.dt → ∃ x, s.fetchDecode = .ok (.ldDtVx x)) ∧ (t.st ≠ s.st → ∃ x, s.fetchDecode = .ok (.ldStVx x))

/-- R172, R30: only CLS and DRW write the framebuffer. -/
def Obligations.FramebufferOnlyByClearAndDraw : Prop :=
  ∀ s t : State, (step s = .next t ∨ ∃ r, stepWith r s = .next t) → t.fb ≠ s.fb →
    s.fetchDecode = .ok .cls ∨ ∃ x y n, s.fetchDecode = .ok (.drw x y n)

/-- R26: only CALL and RET reach the stack; RET never writes a slot. -/
def Obligations.StackOnlyByCallAndRet : Prop :=
  ∀ s t : State, (step s = .next t ∨ ∃ r, stepWith r s = .next t) →
    (t.sp ≠ s.sp → s.fetchDecode = .ok .ret ∨ ∃ nnn, s.fetchDecode = .ok (.call nnn)) ∧
    (t.stack ≠ s.stack → ∃ nnn, s.fetchDecode = .ok (.call nnn))

/-- R25: only LD I, ADD I and LD F write `I`. -/
def Obligations.IndexOnlyByItsOpcodes : Prop :=
  ∀ s t : State, (step s = .next t ∨ ∃ r, stepWith r s = .next t) → t.i ≠ s.i →
    (∃ nnn, s.fetchDecode = .ok (.ldI nnn)) ∨ (∃ x, s.fetchDecode = .ok (.addI x)) ∨ (∃ x, s.fetchDecode = .ok (.ldF x))

/-- R56: a step changes only bytes that LD B stores (I to I + 2) or LD [I], Vx stores (I to I + X), all inside the arena. -/
def Obligations.MemoryOnlyByStores : Prop :=
  ∀ (s t : State) (a : Nat), (step s = .next t ∨ ∃ r, stepWith r s = .next t) → t.readByte a ≠ s.readByte a →
    a ≤ 0xFFF ∧ s.i.toNat ≤ a ∧
      ((∃ x, s.fetchDecode = .ok (.ldB x) ∧ a ≤ s.i.toNat + 2) ∨
      (∃ x : Reg, s.fetchDecode = .ok (.storeBlock x) ∧ a ≤ s.i.toNat + x.val))

/-- R21: VF changes only by the six instructions with a flag, or by an instruction that names VF as its destination. -/
def Obligations.VfWriters : Prop :=
  ∀ s t : State, (step s = .next t ∨ ∃ r, stepWith r s = .next t) → t.getV 15 ≠ s.getV 15 →
    ∃ i, s.fetchDecode = .ok i ∧
      ((∃ x y, i = .addVy x y ∨ i = .subVy x y ∨ i = .subnVy x y ∨ i = .shr x y ∨ i = .shl x y ∨ ∃ n, i = .drw x y n) ∨
      (∃ kk, i = .ldKk 15 kk ∨ i = .addKk 15 kk ∨ i = .rnd 15 kk) ∨
      (∃ y, i = .ldVy 15 y ∨ i = .orVy 15 y ∨ i = .andVy 15 y ∨ i = .xorVy 15 y) ∨
      i = .ldVxDt 15 ∨ i = .ldVxK 15 ∨ i = .loadBlock 15)

/-- The host's aid: a word placed by `withFetchWord` is what the next step fetches, in a running state, from any state whose
memory is canonical (log 4, 21). -/
def Obligations.PlacedWordIsFetched : Prop :=
  ∀ (s : State) (w : Nat), Memory.wf s.cfg s.mem = true →
    (s.withFetchWord 16 w).status = .running ∧ (s.withFetchWord 16 w).fetchWord = .ok (BitVec.ofNat 16 w)
end

