-- ==== Sys2Proof/Laws/Decode.lean ====
section
/-!
SUPPORT. The fields of an encoded word (R72, R75, R81): each format, as a number, is the sum of its shifted fields, and its
fields come back out.
-/
namespace Sys2Proof

variable {c n : BitVec 4} {x y : Reg} {kk : Byte} {nnn : Addr12}

theorem toNat_append_eq {k l : Nat} (a : BitVec k) (b : BitVec l) : (a ++ b).toNat = a.toNat * 2 ^ l + b.toNat := by
  rw [BitVec.toNat_append, ← Nat.shiftLeft_add_eq_or_of_lt b.isLt, Nat.shiftLeft_eq]

theorem encA_toNat : (encA c nnn).toNat = c.toNat * 4096 + nnn.toNat := toNat_append_eq c nnn

theorem encXK_toNat : (encXK c x kk).toNat = (c.toNat * 16 + x.val) * 256 + kk.toNat := by
  refine (toNat_append_eq (c ++ BitVec.ofFin (w := 4) x) kk).trans ?_
  rw [toNat_append_eq]
  rfl

theorem encXYN_toNat : (encXYN c x y n).toNat = ((c.toNat * 16 + x.val) * 16 + y.val) * 16 + n.toNat := by
  refine (toNat_append_eq (c ++ BitVec.ofFin (w := 4) x ++ BitVec.ofFin (w := 4) y) n).trans ?_
  rw [toNat_append_eq, toNat_append_eq]
  rfl

/-! ### The fields of any word, as numbers -/

variable {op : Word}

theorem opFamily_eq : opFamily op = op.toNat / 4096 := by
  have := op.isLt
  simp only [opFamily, BitVec.extractLsb'_toNat, Nat.shiftRight_eq_div_pow]
  omega

theorem opX_eq : (opX op).val = op.toNat / 256 % 16 := by
  simp only [opX, BitVec.val_toFin, BitVec.extractLsb'_toNat, Nat.shiftRight_eq_div_pow]

theorem opY_eq : (opY op).val = op.toNat / 16 % 16 := by
  simp only [opY, BitVec.val_toFin, BitVec.extractLsb'_toNat, Nat.shiftRight_eq_div_pow]

theorem opN_eq : opN op = op.toNat % 16 := by
  simp only [opN, BitVec.extractLsb'_toNat, Nat.shiftRight_zero]

theorem opKk_eq : (opKk op).toNat = op.toNat % 256 := by
  simp only [opKk, BitVec.extractLsb'_toNat, Nat.shiftRight_zero]

theorem opNnn_eq : (opNnn op).toNat = op.toNat % 4096 := by
  simp only [opNnn, BitVec.extractLsb'_toNat, Nat.shiftRight_zero]

/-! ### The fields of an encoded word -/

@[simp] theorem opFamily_encA : opFamily (encA c nnn) = c.toNat := by
  have := nnn.isLt
  rw [opFamily_eq, encA_toNat]; omega

@[simp] theorem opNnn_encA : opNnn (encA c nnn) = nnn := by
  have := nnn.isLt
  apply BitVec.eq_of_toNat_eq
  rw [opNnn_eq, encA_toNat]; omega

@[simp] theorem opFamily_encXK : opFamily (encXK c x kk) = c.toNat := by
  have := kk.isLt
  rw [opFamily_eq, encXK_toNat]; omega

@[simp] theorem opX_encXK : opX (encXK c x kk) = x := by
  have := kk.isLt
  apply Fin.ext
  rw [opX_eq, encXK_toNat]; omega

@[simp] theorem opKk_encXK : opKk (encXK c x kk) = kk := by
  have := kk.isLt
  apply BitVec.eq_of_toNat_eq
  rw [opKk_eq, encXK_toNat]; omega

@[simp] theorem opFamily_encXYN : opFamily (encXYN c x y n) = c.toNat := by
  have := n.isLt
  rw [opFamily_eq, encXYN_toNat]; omega

@[simp] theorem opX_encXYN : opX (encXYN c x y n) = x := by
  have := n.isLt
  apply Fin.ext
  rw [opX_eq, encXYN_toNat]; omega

@[simp] theorem opY_encXYN : opY (encXYN c x y n) = y := by
  have := n.isLt
  apply Fin.ext
  rw [opY_eq, encXYN_toNat]; omega

@[simp] theorem opN_encXYN : opN (encXYN c x y n) = n.toNat := by
  have := n.isLt
  rw [opN_eq, encXYN_toNat]; omega

/-! ### The bits a format fixes -/

theorem encA_and_F000 : encA c nnn &&& 0xF000 = encA c 0 := by
  change (c ++ nnn) &&& (BitVec.allOnes 4 ++ 0#12) = c ++ 0#12
  rw [BitVec.and_append, BitVec.and_allOnes, BitVec.and_zero]

theorem encXK_and_F000 : encXK c x kk &&& 0xF000 = encXK c 0 0 := by
  change (c ++ BitVec.ofFin (w := 4) x ++ kk) &&& (BitVec.allOnes 4 ++ 0#4 ++ 0#8) = c ++ 0#4 ++ 0#8
  simp only [BitVec.and_append, BitVec.and_allOnes, BitVec.and_zero]

theorem encXK_and_F0FF : encXK c x kk &&& 0xF0FF = encXK c 0 kk := by
  change (c ++ BitVec.ofFin (w := 4) x ++ kk) &&& (BitVec.allOnes 4 ++ 0#4 ++ BitVec.allOnes 8) = c ++ 0#4 ++ kk
  simp only [BitVec.and_append, BitVec.and_allOnes, BitVec.and_zero]

theorem encXYN_and_F00F : encXYN c x y n &&& 0xF00F = encXYN c 0 0 n := by
  change (c ++ BitVec.ofFin (w := 4) x ++ BitVec.ofFin (w := 4) y ++ n) &&& (BitVec.allOnes 4 ++ 0#4 ++ 0#4 ++ BitVec.allOnes 4) =
    c ++ 0#4 ++ 0#4 ++ n
  simp only [BitVec.and_append, BitVec.and_allOnes, BitVec.and_zero]

theorem encXYN_and_F000 : encXYN c x y n &&& 0xF000 = encXYN c 0 0 0 := by
  change (c ++ BitVec.ofFin (w := 4) x ++ BitVec.ofFin (w := 4) y ++ n) &&& (BitVec.allOnes 4 ++ 0#4 ++ 0#4 ++ 0#4) =
    c ++ 0#4 ++ 0#4 ++ 0#4
  simp only [BitVec.and_append, BitVec.and_allOnes, BitVec.and_zero]

end Sys2Proof
end

