-- ==== Sys2Proof/Laws/State.lean ====
section
/-!
SUPPORT. The fields of a state after each update: one lemma per field per update, true by rfl; the updates that recurse or
branch follow, by their own recursion.
-/
namespace Sys2Proof.Machine

variable (s : State)

/-! ### setV -/

@[simp] theorem State.setV_v (x : Reg) (b : Byte) : (s.setV x b).v = s.v.set x b := rfl
@[simp] theorem State.setV_i (x : Reg) (b : Byte) : (s.setV x b).i = s.i := rfl
@[simp] theorem State.setV_pc (x : Reg) (b : Byte) : (s.setV x b).pc = s.pc := rfl
@[simp] theorem State.setV_sp (x : Reg) (b : Byte) : (s.setV x b).sp = s.sp := rfl
@[simp] theorem State.setV_stack (x : Reg) (b : Byte) : (s.setV x b).stack = s.stack := rfl
@[simp] theorem State.setV_dt (x : Reg) (b : Byte) : (s.setV x b).dt = s.dt := rfl
@[simp] theorem State.setV_st (x : Reg) (b : Byte) : (s.setV x b).st = s.st := rfl
@[simp] theorem State.setV_keys (x : Reg) (b : Byte) : (s.setV x b).keys = s.keys := rfl
@[simp] theorem State.setV_fb (x : Reg) (b : Byte) : (s.setV x b).fb = s.fb := rfl
@[simp] theorem State.setV_mem (x : Reg) (b : Byte) : (s.setV x b).mem = s.mem := rfl
@[simp] theorem State.setV_status (x : Reg) (b : Byte) : (s.setV x b).status = s.status := rfl
@[simp] theorem State.setV_cfg (x : Reg) (b : Byte) : (s.setV x b).cfg = s.cfg := rfl
@[simp] theorem State.setV_rnd (x : Reg) (b : Byte) : (s.setV x b).rnd = s.rnd := rfl
@[simp] theorem State.setV_draws (x : Reg) (b : Byte) : (s.setV x b).draws = s.draws := rfl

/-! ### setI -/

@[simp] theorem State.setI_v (w : Word) : (s.setI w).v = s.v := rfl
@[simp] theorem State.setI_i (w : Word) : (s.setI w).i = w := rfl
@[simp] theorem State.setI_pc (w : Word) : (s.setI w).pc = s.pc := rfl
@[simp] theorem State.setI_sp (w : Word) : (s.setI w).sp = s.sp := rfl
@[simp] theorem State.setI_stack (w : Word) : (s.setI w).stack = s.stack := rfl
@[simp] theorem State.setI_dt (w : Word) : (s.setI w).dt = s.dt := rfl
@[simp] theorem State.setI_st (w : Word) : (s.setI w).st = s.st := rfl
@[simp] theorem State.setI_keys (w : Word) : (s.setI w).keys = s.keys := rfl
@[simp] theorem State.setI_fb (w : Word) : (s.setI w).fb = s.fb := rfl
@[simp] theorem State.setI_mem (w : Word) : (s.setI w).mem = s.mem := rfl
@[simp] theorem State.setI_status (w : Word) : (s.setI w).status = s.status := rfl
@[simp] theorem State.setI_cfg (w : Word) : (s.setI w).cfg = s.cfg := rfl
@[simp] theorem State.setI_rnd (w : Word) : (s.setI w).rnd = s.rnd := rfl
@[simp] theorem State.setI_draws (w : Word) : (s.setI w).draws = s.draws := rfl

/-! ### setPc -/

@[simp] theorem State.setPc_v (w : Word) : (s.setPc w).v = s.v := rfl
@[simp] theorem State.setPc_i (w : Word) : (s.setPc w).i = s.i := rfl
@[simp] theorem State.setPc_pc (w : Word) : (s.setPc w).pc = w := rfl
@[simp] theorem State.setPc_sp (w : Word) : (s.setPc w).sp = s.sp := rfl
@[simp] theorem State.setPc_stack (w : Word) : (s.setPc w).stack = s.stack := rfl
@[simp] theorem State.setPc_dt (w : Word) : (s.setPc w).dt = s.dt := rfl
@[simp] theorem State.setPc_st (w : Word) : (s.setPc w).st = s.st := rfl
@[simp] theorem State.setPc_keys (w : Word) : (s.setPc w).keys = s.keys := rfl
@[simp] theorem State.setPc_fb (w : Word) : (s.setPc w).fb = s.fb := rfl
@[simp] theorem State.setPc_mem (w : Word) : (s.setPc w).mem = s.mem := rfl
@[simp] theorem State.setPc_status (w : Word) : (s.setPc w).status = s.status := rfl
@[simp] theorem State.setPc_cfg (w : Word) : (s.setPc w).cfg = s.cfg := rfl
@[simp] theorem State.setPc_rnd (w : Word) : (s.setPc w).rnd = s.rnd := rfl
@[simp] theorem State.setPc_draws (w : Word) : (s.setPc w).draws = s.draws := rfl

/-! ### setDt -/

@[simp] theorem State.setDt_v (b : Byte) : (s.setDt b).v = s.v := rfl
@[simp] theorem State.setDt_i (b : Byte) : (s.setDt b).i = s.i := rfl
@[simp] theorem State.setDt_pc (b : Byte) : (s.setDt b).pc = s.pc := rfl
@[simp] theorem State.setDt_sp (b : Byte) : (s.setDt b).sp = s.sp := rfl
@[simp] theorem State.setDt_stack (b : Byte) : (s.setDt b).stack = s.stack := rfl
@[simp] theorem State.setDt_dt (b : Byte) : (s.setDt b).dt = b := rfl
@[simp] theorem State.setDt_st (b : Byte) : (s.setDt b).st = s.st := rfl
@[simp] theorem State.setDt_keys (b : Byte) : (s.setDt b).keys = s.keys := rfl
@[simp] theorem State.setDt_fb (b : Byte) : (s.setDt b).fb = s.fb := rfl
@[simp] theorem State.setDt_mem (b : Byte) : (s.setDt b).mem = s.mem := rfl
@[simp] theorem State.setDt_status (b : Byte) : (s.setDt b).status = s.status := rfl
@[simp] theorem State.setDt_cfg (b : Byte) : (s.setDt b).cfg = s.cfg := rfl
@[simp] theorem State.setDt_rnd (b : Byte) : (s.setDt b).rnd = s.rnd := rfl
@[simp] theorem State.setDt_draws (b : Byte) : (s.setDt b).draws = s.draws := rfl

/-! ### setSt -/

@[simp] theorem State.setSt_v (b : Byte) : (s.setSt b).v = s.v := rfl
@[simp] theorem State.setSt_i (b : Byte) : (s.setSt b).i = s.i := rfl
@[simp] theorem State.setSt_pc (b : Byte) : (s.setSt b).pc = s.pc := rfl
@[simp] theorem State.setSt_sp (b : Byte) : (s.setSt b).sp = s.sp := rfl
@[simp] theorem State.setSt_stack (b : Byte) : (s.setSt b).stack = s.stack := rfl
@[simp] theorem State.setSt_dt (b : Byte) : (s.setSt b).dt = s.dt := rfl
@[simp] theorem State.setSt_st (b : Byte) : (s.setSt b).st = b := rfl
@[simp] theorem State.setSt_keys (b : Byte) : (s.setSt b).keys = s.keys := rfl
@[simp] theorem State.setSt_fb (b : Byte) : (s.setSt b).fb = s.fb := rfl
@[simp] theorem State.setSt_mem (b : Byte) : (s.setSt b).mem = s.mem := rfl
@[simp] theorem State.setSt_status (b : Byte) : (s.setSt b).status = s.status := rfl
@[simp] theorem State.setSt_cfg (b : Byte) : (s.setSt b).cfg = s.cfg := rfl
@[simp] theorem State.setSt_rnd (b : Byte) : (s.setSt b).rnd = s.rnd := rfl
@[simp] theorem State.setSt_draws (b : Byte) : (s.setSt b).draws = s.draws := rfl

/-! ### setKey -/

@[simp] theorem State.setKey_v (k : Key) (p : Bool) : (s.setKey k p).v = s.v := rfl
@[simp] theorem State.setKey_i (k : Key) (p : Bool) : (s.setKey k p).i = s.i := rfl
@[simp] theorem State.setKey_pc (k : Key) (p : Bool) : (s.setKey k p).pc = s.pc := rfl
@[simp] theorem State.setKey_sp (k : Key) (p : Bool) : (s.setKey k p).sp = s.sp := rfl
@[simp] theorem State.setKey_stack (k : Key) (p : Bool) : (s.setKey k p).stack = s.stack := rfl
@[simp] theorem State.setKey_dt (k : Key) (p : Bool) : (s.setKey k p).dt = s.dt := rfl
@[simp] theorem State.setKey_st (k : Key) (p : Bool) : (s.setKey k p).st = s.st := rfl
@[simp] theorem State.setKey_keys (k : Key) (p : Bool) : (s.setKey k p).keys = s.keys.set k p := rfl
@[simp] theorem State.setKey_fb (k : Key) (p : Bool) : (s.setKey k p).fb = s.fb := rfl
@[simp] theorem State.setKey_mem (k : Key) (p : Bool) : (s.setKey k p).mem = s.mem := rfl
@[simp] theorem State.setKey_status (k : Key) (p : Bool) : (s.setKey k p).status = s.status := rfl
@[simp] theorem State.setKey_cfg (k : Key) (p : Bool) : (s.setKey k p).cfg = s.cfg := rfl
@[simp] theorem State.setKey_rnd (k : Key) (p : Bool) : (s.setKey k p).rnd = s.rnd := rfl
@[simp] theorem State.setKey_draws (k : Key) (p : Bool) : (s.setKey k p).draws = s.draws := rfl

/-! ### storeByte -/

@[simp] theorem State.storeByte_v (a : Nat) (b : Byte) : (s.storeByte a b).v = s.v := rfl
@[simp] theorem State.storeByte_i (a : Nat) (b : Byte) : (s.storeByte a b).i = s.i := rfl
@[simp] theorem State.storeByte_pc (a : Nat) (b : Byte) : (s.storeByte a b).pc = s.pc := rfl
@[simp] theorem State.storeByte_sp (a : Nat) (b : Byte) : (s.storeByte a b).sp = s.sp := rfl
@[simp] theorem State.storeByte_stack (a : Nat) (b : Byte) : (s.storeByte a b).stack = s.stack := rfl
@[simp] theorem State.storeByte_dt (a : Nat) (b : Byte) : (s.storeByte a b).dt = s.dt := rfl
@[simp] theorem State.storeByte_st (a : Nat) (b : Byte) : (s.storeByte a b).st = s.st := rfl
@[simp] theorem State.storeByte_keys (a : Nat) (b : Byte) : (s.storeByte a b).keys = s.keys := rfl
@[simp] theorem State.storeByte_fb (a : Nat) (b : Byte) : (s.storeByte a b).fb = s.fb := rfl
@[simp] theorem State.storeByte_mem (a : Nat) (b : Byte) : (s.storeByte a b).mem = Memory.write s.cfg s.mem a b := rfl
@[simp] theorem State.storeByte_status (a : Nat) (b : Byte) : (s.storeByte a b).status = s.status := rfl
@[simp] theorem State.storeByte_cfg (a : Nat) (b : Byte) : (s.storeByte a b).cfg = s.cfg := rfl
@[simp] theorem State.storeByte_rnd (a : Nat) (b : Byte) : (s.storeByte a b).rnd = s.rnd := rfl
@[simp] theorem State.storeByte_draws (a : Nat) (b : Byte) : (s.storeByte a b).draws = s.draws := rfl

/-! ### skip -/

@[simp] theorem State.skip_v : (s.skip).v = s.v := rfl
@[simp] theorem State.skip_i : (s.skip).i = s.i := rfl
@[simp] theorem State.skip_pc : (s.skip).pc = s.pc + 2 := rfl
@[simp] theorem State.skip_sp : (s.skip).sp = s.sp := rfl
@[simp] theorem State.skip_stack : (s.skip).stack = s.stack := rfl
@[simp] theorem State.skip_dt : (s.skip).dt = s.dt := rfl
@[simp] theorem State.skip_st : (s.skip).st = s.st := rfl
@[simp] theorem State.skip_keys : (s.skip).keys = s.keys := rfl
@[simp] theorem State.skip_fb : (s.skip).fb = s.fb := rfl
@[simp] theorem State.skip_mem : (s.skip).mem = s.mem := rfl
@[simp] theorem State.skip_status : (s.skip).status = s.status := rfl
@[simp] theorem State.skip_cfg : (s.skip).cfg = s.cfg := rfl
@[simp] theorem State.skip_rnd : (s.skip).rnd = s.rnd := rfl
@[simp] theorem State.skip_draws : (s.skip).draws = s.draws := rfl

/-! ### recordFault -/

@[simp] theorem State.recordFault_v (f : Fault) : (s.recordFault f).v = s.v := rfl
@[simp] theorem State.recordFault_i (f : Fault) : (s.recordFault f).i = s.i := rfl
@[simp] theorem State.recordFault_pc (f : Fault) : (s.recordFault f).pc = s.pc := rfl
@[simp] theorem State.recordFault_sp (f : Fault) : (s.recordFault f).sp = s.sp := rfl
@[simp] theorem State.recordFault_stack (f : Fault) : (s.recordFault f).stack = s.stack := rfl
@[simp] theorem State.recordFault_dt (f : Fault) : (s.recordFault f).dt = s.dt := rfl
@[simp] theorem State.recordFault_st (f : Fault) : (s.recordFault f).st = s.st := rfl
@[simp] theorem State.recordFault_keys (f : Fault) : (s.recordFault f).keys = s.keys := rfl
@[simp] theorem State.recordFault_fb (f : Fault) : (s.recordFault f).fb = s.fb := rfl
@[simp] theorem State.recordFault_mem (f : Fault) : (s.recordFault f).mem = s.mem := rfl
@[simp] theorem State.recordFault_status (f : Fault) : (s.recordFault f).status = .faulted f := rfl
@[simp] theorem State.recordFault_cfg (f : Fault) : (s.recordFault f).cfg = s.cfg := rfl
@[simp] theorem State.recordFault_rnd (f : Fault) : (s.recordFault f).rnd = s.rnd := rfl
@[simp] theorem State.recordFault_draws (f : Fault) : (s.recordFault f).draws = s.draws := rfl

/-! ### raise -/

@[simp] theorem State.raise_v (f : Fault) : (s.raise f).v = s.v := rfl
@[simp] theorem State.raise_i (f : Fault) : (s.raise f).i = s.i := rfl
@[simp] theorem State.raise_pc (f : Fault) : (s.raise f).pc = s.pc - 2 := rfl
@[simp] theorem State.raise_sp (f : Fault) : (s.raise f).sp = s.sp := rfl
@[simp] theorem State.raise_stack (f : Fault) : (s.raise f).stack = s.stack := rfl
@[simp] theorem State.raise_dt (f : Fault) : (s.raise f).dt = s.dt := rfl
@[simp] theorem State.raise_st (f : Fault) : (s.raise f).st = s.st := rfl
@[simp] theorem State.raise_keys (f : Fault) : (s.raise f).keys = s.keys := rfl
@[simp] theorem State.raise_fb (f : Fault) : (s.raise f).fb = s.fb := rfl
@[simp] theorem State.raise_mem (f : Fault) : (s.raise f).mem = s.mem := rfl
@[simp] theorem State.raise_status (f : Fault) : (s.raise f).status = .faulted f := rfl
@[simp] theorem State.raise_cfg (f : Fault) : (s.raise f).cfg = s.cfg := rfl
@[simp] theorem State.raise_rnd (f : Fault) : (s.raise f).rnd = s.rnd := rfl
@[simp] theorem State.raise_draws (f : Fault) : (s.raise f).draws = s.draws := rfl

/-! ### advance -/

@[simp] theorem State.advance_v : (s.advance).v = s.v := rfl
@[simp] theorem State.advance_i : (s.advance).i = s.i := rfl
@[simp] theorem State.advance_pc : (s.advance).pc = s.pc + 2 := rfl
@[simp] theorem State.advance_sp : (s.advance).sp = s.sp := rfl
@[simp] theorem State.advance_stack : (s.advance).stack = s.stack := rfl
@[simp] theorem State.advance_dt : (s.advance).dt = s.dt := rfl
@[simp] theorem State.advance_st : (s.advance).st = s.st := rfl
@[simp] theorem State.advance_keys : (s.advance).keys = s.keys := rfl
@[simp] theorem State.advance_fb : (s.advance).fb = s.fb := rfl
@[simp] theorem State.advance_mem : (s.advance).mem = s.mem := rfl
@[simp] theorem State.advance_status : (s.advance).status = s.status := rfl
@[simp] theorem State.advance_cfg : (s.advance).cfg = s.cfg := rfl
@[simp] theorem State.advance_rnd : (s.advance).rnd = s.rnd := rfl
@[simp] theorem State.advance_draws : (s.advance).draws = s.draws := rfl

/-! ### presentRnd -/

@[simp] theorem State.presentRnd_v (r : Byte) : (s.presentRnd r).v = s.v := rfl
@[simp] theorem State.presentRnd_i (r : Byte) : (s.presentRnd r).i = s.i := rfl
@[simp] theorem State.presentRnd_pc (r : Byte) : (s.presentRnd r).pc = s.pc := rfl
@[simp] theorem State.presentRnd_sp (r : Byte) : (s.presentRnd r).sp = s.sp := rfl
@[simp] theorem State.presentRnd_stack (r : Byte) : (s.presentRnd r).stack = s.stack := rfl
@[simp] theorem State.presentRnd_dt (r : Byte) : (s.presentRnd r).dt = s.dt := rfl
@[simp] theorem State.presentRnd_st (r : Byte) : (s.presentRnd r).st = s.st := rfl
@[simp] theorem State.presentRnd_keys (r : Byte) : (s.presentRnd r).keys = s.keys := rfl
@[simp] theorem State.presentRnd_fb (r : Byte) : (s.presentRnd r).fb = s.fb := rfl
@[simp] theorem State.presentRnd_mem (r : Byte) : (s.presentRnd r).mem = s.mem := rfl
@[simp] theorem State.presentRnd_status (r : Byte) : (s.presentRnd r).status = s.status := rfl
@[simp] theorem State.presentRnd_cfg (r : Byte) : (s.presentRnd r).cfg = s.cfg := rfl
@[simp] theorem State.presentRnd_rnd (r : Byte) : (s.presentRnd r).rnd = r := rfl
@[simp] theorem State.presentRnd_draws (r : Byte) : (s.presentRnd r).draws = s.draws := rfl

/-! ### storeBytes: every field but mem -/

@[simp] theorem State.storeBytes_v (a : Nat) (bs : List Byte) : (s.storeBytes a bs).v = s.v := by
  induction bs generalizing s a with
  | nil => rfl
  | cons b bs ih => simp [State.storeBytes, ih]
@[simp] theorem State.storeBytes_i (a : Nat) (bs : List Byte) : (s.storeBytes a bs).i = s.i := by
  induction bs generalizing s a with
  | nil => rfl
  | cons b bs ih => simp [State.storeBytes, ih]
@[simp] theorem State.storeBytes_pc (a : Nat) (bs : List Byte) : (s.storeBytes a bs).pc = s.pc := by
  induction bs generalizing s a with
  | nil => rfl
  | cons b bs ih => simp [State.storeBytes, ih]
@[simp] theorem State.storeBytes_sp (a : Nat) (bs : List Byte) : (s.storeBytes a bs).sp = s.sp := by
  induction bs generalizing s a with
  | nil => rfl
  | cons b bs ih => simp [State.storeBytes, ih]
@[simp] theorem State.storeBytes_stack (a : Nat) (bs : List Byte) : (s.storeBytes a bs).stack = s.stack := by
  induction bs generalizing s a with
  | nil => rfl
  | cons b bs ih => simp [State.storeBytes, ih]
@[simp] theorem State.storeBytes_dt (a : Nat) (bs : List Byte) : (s.storeBytes a bs).dt = s.dt := by
  induction bs generalizing s a with
  | nil => rfl
  | cons b bs ih => simp [State.storeBytes, ih]
@[simp] theorem State.storeBytes_st (a : Nat) (bs : List Byte) : (s.storeBytes a bs).st = s.st := by
  induction bs generalizing s a with
  | nil => rfl
  | cons b bs ih => simp [State.storeBytes, ih]
@[simp] theorem State.storeBytes_keys (a : Nat) (bs : List Byte) : (s.storeBytes a bs).keys = s.keys := by
  induction bs generalizing s a with
  | nil => rfl
  | cons b bs ih => simp [State.storeBytes, ih]
@[simp] theorem State.storeBytes_fb (a : Nat) (bs : List Byte) : (s.storeBytes a bs).fb = s.fb := by
  induction bs generalizing s a with
  | nil => rfl
  | cons b bs ih => simp [State.storeBytes, ih]
@[simp] theorem State.storeBytes_status (a : Nat) (bs : List Byte) : (s.storeBytes a bs).status = s.status := by
  induction bs generalizing s a with
  | nil => rfl
  | cons b bs ih => simp [State.storeBytes, ih]
@[simp] theorem State.storeBytes_cfg (a : Nat) (bs : List Byte) : (s.storeBytes a bs).cfg = s.cfg := by
  induction bs generalizing s a with
  | nil => rfl
  | cons b bs ih => simp [State.storeBytes, ih]
@[simp] theorem State.storeBytes_rnd (a : Nat) (bs : List Byte) : (s.storeBytes a bs).rnd = s.rnd := by
  induction bs generalizing s a with
  | nil => rfl
  | cons b bs ih => simp [State.storeBytes, ih]
@[simp] theorem State.storeBytes_draws (a : Nat) (bs : List Byte) : (s.storeBytes a bs).draws = s.draws := by
  induction bs generalizing s a with
  | nil => rfl
  | cons b bs ih => simp [State.storeBytes, ih]

/-! ### setVsFrom: every field but v -/

@[simp] theorem State.setVsFrom_i (k : Nat) (bs : List Byte) : (s.setVsFrom k bs).i = s.i := by
  induction bs generalizing s k with
  | nil => rfl
  | cons b bs ih => unfold State.setVsFrom; split <;> simp [ih]
@[simp] theorem State.setVsFrom_pc (k : Nat) (bs : List Byte) : (s.setVsFrom k bs).pc = s.pc := by
  induction bs generalizing s k with
  | nil => rfl
  | cons b bs ih => unfold State.setVsFrom; split <;> simp [ih]
@[simp] theorem State.setVsFrom_sp (k : Nat) (bs : List Byte) : (s.setVsFrom k bs).sp = s.sp := by
  induction bs generalizing s k with
  | nil => rfl
  | cons b bs ih => unfold State.setVsFrom; split <;> simp [ih]
@[simp] theorem State.setVsFrom_stack (k : Nat) (bs : List Byte) : (s.setVsFrom k bs).stack = s.stack := by
  induction bs generalizing s k with
  | nil => rfl
  | cons b bs ih => unfold State.setVsFrom; split <;> simp [ih]
@[simp] theorem State.setVsFrom_dt (k : Nat) (bs : List Byte) : (s.setVsFrom k bs).dt = s.dt := by
  induction bs generalizing s k with
  | nil => rfl
  | cons b bs ih => unfold State.setVsFrom; split <;> simp [ih]
@[simp] theorem State.setVsFrom_st (k : Nat) (bs : List Byte) : (s.setVsFrom k bs).st = s.st := by
  induction bs generalizing s k with
  | nil => rfl
  | cons b bs ih => unfold State.setVsFrom; split <;> simp [ih]
@[simp] theorem State.setVsFrom_keys (k : Nat) (bs : List Byte) : (s.setVsFrom k bs).keys = s.keys := by
  induction bs generalizing s k with
  | nil => rfl
  | cons b bs ih => unfold State.setVsFrom; split <;> simp [ih]
@[simp] theorem State.setVsFrom_fb (k : Nat) (bs : List Byte) : (s.setVsFrom k bs).fb = s.fb := by
  induction bs generalizing s k with
  | nil => rfl
  | cons b bs ih => unfold State.setVsFrom; split <;> simp [ih]
@[simp] theorem State.setVsFrom_mem (k : Nat) (bs : List Byte) : (s.setVsFrom k bs).mem = s.mem := by
  induction bs generalizing s k with
  | nil => rfl
  | cons b bs ih => unfold State.setVsFrom; split <;> simp [ih]
@[simp] theorem State.setVsFrom_status (k : Nat) (bs : List Byte) : (s.setVsFrom k bs).status = s.status := by
  induction bs generalizing s k with
  | nil => rfl
  | cons b bs ih => unfold State.setVsFrom; split <;> simp [ih]
@[simp] theorem State.setVsFrom_cfg (k : Nat) (bs : List Byte) : (s.setVsFrom k bs).cfg = s.cfg := by
  induction bs generalizing s k with
  | nil => rfl
  | cons b bs ih => unfold State.setVsFrom; split <;> simp [ih]
@[simp] theorem State.setVsFrom_rnd (k : Nat) (bs : List Byte) : (s.setVsFrom k bs).rnd = s.rnd := by
  induction bs generalizing s k with
  | nil => rfl
  | cons b bs ih => unfold State.setVsFrom; split <;> simp [ih]
@[simp] theorem State.setVsFrom_draws (k : Nat) (bs : List Byte) : (s.setVsFrom k bs).draws = s.draws := by
  induction bs generalizing s k with
  | nil => rfl
  | cons b bs ih => unfold State.setVsFrom; split <;> simp [ih]

/-! ### writeResultFlag: every field but v -/

@[simp] theorem State.writeResultFlag_i (x : Reg) (r : Byte) (f : Bool) : (s.writeResultFlag x r f).i = s.i := by
  unfold State.writeResultFlag; split <;> rfl
@[simp] theorem State.writeResultFlag_pc (x : Reg) (r : Byte) (f : Bool) : (s.writeResultFlag x r f).pc = s.pc := by
  unfold State.writeResultFlag; split <;> rfl
@[simp] theorem State.writeResultFlag_sp (x : Reg) (r : Byte) (f : Bool) : (s.writeResultFlag x r f).sp = s.sp := by
  unfold State.writeResultFlag; split <;> rfl
@[simp] theorem State.writeResultFlag_stack (x : Reg) (r : Byte) (f : Bool) : (s.writeResultFlag x r f).stack = s.stack := by
  unfold State.writeResultFlag; split <;> rfl
@[simp] theorem State.writeResultFlag_dt (x : Reg) (r : Byte) (f : Bool) : (s.writeResultFlag x r f).dt = s.dt := by
  unfold State.writeResultFlag; split <;> rfl
@[simp] theorem State.writeResultFlag_st (x : Reg) (r : Byte) (f : Bool) : (s.writeResultFlag x r f).st = s.st := by
  unfold State.writeResultFlag; split <;> rfl
@[simp] theorem State.writeResultFlag_keys (x : Reg) (r : Byte) (f : Bool) : (s.writeResultFlag x r f).keys = s.keys := by
  unfold State.writeResultFlag; split <;> rfl
@[simp] theorem State.writeResultFlag_fb (x : Reg) (r : Byte) (f : Bool) : (s.writeResultFlag x r f).fb = s.fb := by
  unfold State.writeResultFlag; split <;> rfl
@[simp] theorem State.writeResultFlag_mem (x : Reg) (r : Byte) (f : Bool) : (s.writeResultFlag x r f).mem = s.mem := by
  unfold State.writeResultFlag; split <;> rfl
@[simp] theorem State.writeResultFlag_status (x : Reg) (r : Byte) (f : Bool) : (s.writeResultFlag x r f).status = s.status := by
  unfold State.writeResultFlag; split <;> rfl
@[simp] theorem State.writeResultFlag_cfg (x : Reg) (r : Byte) (f : Bool) : (s.writeResultFlag x r f).cfg = s.cfg := by
  unfold State.writeResultFlag; split <;> rfl
@[simp] theorem State.writeResultFlag_rnd (x : Reg) (r : Byte) (f : Bool) : (s.writeResultFlag x r f).rnd = s.rnd := by
  unfold State.writeResultFlag; split <;> rfl
@[simp] theorem State.writeResultFlag_draws (x : Reg) (r : Byte) (f : Bool) : (s.writeResultFlag x r f).draws = s.draws := by
  unfold State.writeResultFlag; split <;> rfl

/-! ### skipIf: every field but pc -/

@[simp] theorem State.skipIf_v (c : Bool) : (s.skipIf c).v = s.v := by
  cases c <;> rfl
@[simp] theorem State.skipIf_i (c : Bool) : (s.skipIf c).i = s.i := by
  cases c <;> rfl
@[simp] theorem State.skipIf_sp (c : Bool) : (s.skipIf c).sp = s.sp := by
  cases c <;> rfl
@[simp] theorem State.skipIf_stack (c : Bool) : (s.skipIf c).stack = s.stack := by
  cases c <;> rfl
@[simp] theorem State.skipIf_dt (c : Bool) : (s.skipIf c).dt = s.dt := by
  cases c <;> rfl
@[simp] theorem State.skipIf_st (c : Bool) : (s.skipIf c).st = s.st := by
  cases c <;> rfl
@[simp] theorem State.skipIf_keys (c : Bool) : (s.skipIf c).keys = s.keys := by
  cases c <;> rfl
@[simp] theorem State.skipIf_fb (c : Bool) : (s.skipIf c).fb = s.fb := by
  cases c <;> rfl
@[simp] theorem State.skipIf_mem (c : Bool) : (s.skipIf c).mem = s.mem := by
  cases c <;> rfl
@[simp] theorem State.skipIf_status (c : Bool) : (s.skipIf c).status = s.status := by
  cases c <;> rfl
@[simp] theorem State.skipIf_cfg (c : Bool) : (s.skipIf c).cfg = s.cfg := by
  cases c <;> rfl
@[simp] theorem State.skipIf_rnd (c : Bool) : (s.skipIf c).rnd = s.rnd := by
  cases c <;> rfl
@[simp] theorem State.skipIf_draws (c : Bool) : (s.skipIf c).draws = s.draws := by
  cases c <;> rfl

/-! ### countDraw: every field but draws -/

@[simp] theorem State.countDraw_v : (s.countDraw).v = s.v := by
  unfold State.countDraw; split <;> rfl
@[simp] theorem State.countDraw_i : (s.countDraw).i = s.i := by
  unfold State.countDraw; split <;> rfl
@[simp] theorem State.countDraw_pc : (s.countDraw).pc = s.pc := by
  unfold State.countDraw; split <;> rfl
@[simp] theorem State.countDraw_sp : (s.countDraw).sp = s.sp := by
  unfold State.countDraw; split <;> rfl
@[simp] theorem State.countDraw_stack : (s.countDraw).stack = s.stack := by
  unfold State.countDraw; split <;> rfl
@[simp] theorem State.countDraw_dt : (s.countDraw).dt = s.dt := by
  unfold State.countDraw; split <;> rfl
@[simp] theorem State.countDraw_st : (s.countDraw).st = s.st := by
  unfold State.countDraw; split <;> rfl
@[simp] theorem State.countDraw_keys : (s.countDraw).keys = s.keys := by
  unfold State.countDraw; split <;> rfl
@[simp] theorem State.countDraw_fb : (s.countDraw).fb = s.fb := by
  unfold State.countDraw; split <;> rfl
@[simp] theorem State.countDraw_mem : (s.countDraw).mem = s.mem := by
  unfold State.countDraw; split <;> rfl
@[simp] theorem State.countDraw_status : (s.countDraw).status = s.status := by
  unfold State.countDraw; split <;> rfl
@[simp] theorem State.countDraw_cfg : (s.countDraw).cfg = s.cfg := by
  unfold State.countDraw; split <;> rfl
@[simp] theorem State.countDraw_rnd : (s.countDraw).rnd = s.rnd := by
  unfold State.countDraw; split <;> rfl

end Sys2Proof.Machine
end

