-- ==== Sys2Proof/Laws/Memory.lean ====
section
/-!
SUPPORT. The laws of memory: a read after a write, and that every operation keeps the canonical form.
-/
namespace Sys2Proof.Machine

variable {c : Config} {m : Memory} {a b x lo : Nat} {v : Byte}

theorem Memory.lookup_insert : Memory.lookup (Memory.insert m a v) x = if a = x then some v else Memory.lookup m x := by
  induction m with
  | nil => simp [Memory.insert, Memory.lookup]
  | cons e m ih =>
    obtain ⟨k, w⟩ := e
    unfold Memory.insert
    split
    · simp [Memory.lookup]
    · split
      · subst_vars; simp only [Memory.lookup]; split <;> simp_all
      · simp only [Memory.lookup, ih]; split <;> split <;> simp_all

theorem Memory.lookup_erase_of_ne (h : a ≠ x) : Memory.lookup (Memory.erase m a) x = Memory.lookup m x := by
  induction m with
  | nil => rfl
  | cons e m ih =>
    obtain ⟨k, w⟩ := e
    unfold Memory.erase
    split
    · subst_vars; simp [Memory.lookup, h]
    · simp [Memory.lookup, ih]

theorem Memory.wfFrom_cons {k : Nat} {w : Byte} : Memory.wfFrom c lo ((k, w) :: m) = true ↔
    lo ≤ k ∧ k < 4096 ∧ w ≠ Memory.unlisted c k ∧ Memory.wfFrom c (k + 1) m = true := by
  simp only [Memory.wfFrom, Bool.and_eq_true, decide_eq_true_eq, bne_iff_ne, and_assoc]
  exact Iff.rfl

theorem Memory.wfFrom_mono {lo' : Nat} (h : Memory.wfFrom c lo m = true) (hl : lo' ≤ lo) : Memory.wfFrom c lo' m = true := by
  cases m with
  | nil => rfl
  | cons e m =>
    obtain ⟨k, w⟩ := e
    rw [Memory.wfFrom_cons] at h ⊢
    exact ⟨by omega, h.2⟩

theorem Memory.lookup_of_lt (h : Memory.wfFrom c lo m = true) (hx : x < lo) : Memory.lookup m x = none := by
  induction m generalizing lo with
  | nil => rfl
  | cons e m ih =>
    obtain ⟨k, w⟩ := e
    rw [Memory.wfFrom_cons] at h
    have hk : k ≠ x := by omega
    simp only [Memory.lookup, hk, if_false]
    exact ih h.2.2.2 (by omega)

theorem Memory.lookup_erase_self (h : Memory.wfFrom c lo m = true) : Memory.lookup (Memory.erase m a) a = none := by
  induction m generalizing lo with
  | nil => rfl
  | cons e m ih =>
    obtain ⟨k, w⟩ := e
    rw [Memory.wfFrom_cons] at h
    unfold Memory.erase
    split
    · exact Memory.lookup_of_lt h.2.2.2 (by omega)
    · rename_i hk
      simp only [Memory.lookup, hk, if_false]
      exact ih h.2.2.2

theorem Memory.wfFrom_erase (h : Memory.wfFrom c lo m = true) : Memory.wfFrom c lo (Memory.erase m a) = true := by
  induction m generalizing lo with
  | nil => rfl
  | cons e m ih =>
    obtain ⟨k, w⟩ := e
    rw [Memory.wfFrom_cons] at h
    unfold Memory.erase
    split
    · exact Memory.wfFrom_mono h.2.2.2 (by omega)
    · rw [Memory.wfFrom_cons]
      exact ⟨h.1, h.2.1, h.2.2.1, ih h.2.2.2⟩

theorem Memory.wfFrom_insert (h : Memory.wfFrom c lo m = true) (hl : lo ≤ a) (ha : a < 4096)
    (hv : v ≠ Memory.unlisted c a) : Memory.wfFrom c lo (Memory.insert m a v) = true := by
  induction m generalizing lo with
  | nil => exact Memory.wfFrom_cons.2 ⟨hl, ha, hv, rfl⟩
  | cons e m ih =>
    obtain ⟨k, w⟩ := e
    have h' := Memory.wfFrom_cons.1 h
    unfold Memory.insert
    split
    · exact Memory.wfFrom_cons.2 ⟨hl, ha, hv, Memory.wfFrom_cons.2 ⟨by omega, h'.2⟩⟩
    · split
      · subst_vars; exact Memory.wfFrom_cons.2 ⟨hl, ha, hv, h'.2.2.2⟩
      · exact Memory.wfFrom_cons.2 ⟨h'.1, h'.2.1, h'.2.2.1, ih h'.2.2.2 (by omega)⟩

/-- Every write inside the arena keeps the canonical form. -/
theorem Memory.wf_write (h : Memory.wf c m = true) (ha : a < 4096) : Memory.wf c (Memory.write c m a v) = true := by
  unfold Memory.write
  split
  · exact Memory.wfFrom_erase h
  · rename_i hv; exact Memory.wfFrom_insert h (Nat.zero_le _) ha hv

/-- A write leaves every other address alone. -/
theorem Memory.read_write_of_ne (h : a ≠ x) : Memory.read c (Memory.write c m a v) x = Memory.read c m x := by
  unfold Memory.read Memory.write
  split
  · rw [Memory.lookup_erase_of_ne h]
  · rw [Memory.lookup_insert, if_neg h]

/-- A read after a write to the same address gives the value written. -/
theorem Memory.read_write_self (h : Memory.wf c m = true) : Memory.read c (Memory.write c m a v) a = v := by
  unfold Memory.read Memory.write
  split
  · rename_i hv; rw [Memory.lookup_erase_self h, hv]; rfl
  · rw [Memory.lookup_insert]; simp

/-- Two canonical memories that read alike are equal. -/
theorem Memory.ext_of_read {m' : Memory} (h : Memory.wfFrom c lo m = true) (h' : Memory.wfFrom c lo m' = true)
    (hr : ∀ x, Memory.read c m x = Memory.read c m' x) : m = m' := by
  induction m generalizing lo m' with
  | nil =>
    cases m' with
    | nil => rfl
    | cons e m' =>
      obtain ⟨k, w⟩ := e
      have h2 := Memory.wfFrom_cons.1 h'
      have := hr k
      simp [Memory.read, Memory.lookup] at this
      exact absurd this.symm h2.2.2.1
  | cons e m ih =>
    obtain ⟨k, w⟩ := e
    have h1 := Memory.wfFrom_cons.1 h
    cases m' with
    | nil =>
      have := hr k
      simp [Memory.read, Memory.lookup] at this
      exact absurd this h1.2.2.1
    | cons e' m' =>
      obtain ⟨k', w'⟩ := e'
      have h2 := Memory.wfFrom_cons.1 h'
      have hk : k = k' := by
        rcases Nat.lt_trichotomy k k' with hlt | heq | hgt
        · have := hr k
          have hn : k' ≠ k := by omega
          simp [Memory.read, Memory.lookup, hn, Memory.lookup_of_lt h2.2.2.2 (show k < k' + 1 by omega)] at this
          exact absurd this h1.2.2.1
        · exact heq
        · have := hr k'
          have hn : k ≠ k' := by omega
          simp [Memory.read, Memory.lookup, hn, Memory.lookup_of_lt h1.2.2.2 (show k' < k + 1 by omega)] at this
          exact absurd this.symm h2.2.2.1
      subst hk
      have hw : w = w' := by simpa [Memory.read, Memory.lookup] using hr k
      subst hw
      congr 1
      refine ih h1.2.2.2 h2.2.2.2 fun x => ?_
      by_cases hx : k = x
      · subst hx
        simp [Memory.read, Memory.lookup_of_lt h1.2.2.2 (Nat.lt_succ_self k), Memory.lookup_of_lt h2.2.2.2 (Nat.lt_succ_self k)]
      · simpa [Memory.read, Memory.lookup, hx] using hr x

/-! ### The same in a state -/

variable {s : State}

theorem State.readByte_storeByte_of_ne (h : a ≠ x) : (s.storeByte a v).readByte x = s.readByte x :=
  Memory.read_write_of_ne h

theorem State.readByte_storeByte_self (h : Memory.wf s.cfg s.mem = true) : (s.storeByte a v).readByte a = v :=
  Memory.read_write_self h

/-- Bytes outside the stored ones read as before. -/
theorem State.readByte_storeBytes_of_outside {bs : List Byte} (h : x < a ∨ a + bs.length ≤ x) :
    (s.storeBytes a bs).readByte x = s.readByte x := by
  induction bs generalizing s a with
  | nil => rfl
  | cons b bs ih =>
    simp only [List.length_cons] at h
    rw [State.storeBytes, ih (by omega), State.readByte_storeByte_of_ne (by omega)]

/-- Storing inside the arena keeps the canonical form. -/
theorem State.wf_storeBytes {bs : List Byte} (h : Memory.wf s.cfg s.mem = true) (ha : a + bs.length ≤ 4096) :
    Memory.wf s.cfg (s.storeBytes a bs).mem = true := by
  induction bs generalizing s a with
  | nil => exact h
  | cons b bs ih =>
    simp only [List.length_cons] at ha
    exact ih (s := s.storeByte a b) (Memory.wf_write h (by omega)) (by omega)

/-- The stored bytes read back. -/
theorem State.readByte_storeBytes {bs : List Byte} (h : Memory.wf s.cfg s.mem = true) (ha : a + bs.length ≤ 4096) {j : Nat}
    (hj : j < bs.length) : (s.storeBytes a bs).readByte (a + j) = bs[j] := by
  induction bs generalizing s a j with
  | nil => simp at hj
  | cons b bs ih =>
    simp only [List.length_cons] at ha hj
    cases j with
    | zero =>
      rw [State.storeBytes, State.readByte_storeBytes_of_outside (by omega)]
      exact State.readByte_storeByte_self h
    | succ j =>
      have := ih (s := s.storeByte a b) (a := a + 1) (Memory.wf_write h (by omega)) (by omega) (j := j) (by omega)
      rw [State.storeBytes, show a + (j + 1) = a + 1 + j by omega, this]
      rfl

end Sys2Proof.Machine
end

