-- ==== Sys2Proof/Laws/Ops.lean ====
section
/-!
SUPPORT. What each shared operation can do, said once: registers, block accesses, the stack, faults, flags.
-/
namespace Sys2Proof.Machine

variable {s : State}

/-! ### Registers -/

theorem State.getV_setV {x y : Reg} {b : Byte} : (s.setV x b).getV y = if x = y then b else s.getV y := by
  simp [State.getV, State.setV, Vector.getElem_set, Fin.ext_iff]

@[simp] theorem State.getV_setV_self {x : Reg} {b : Byte} : (s.setV x b).getV x = b := by simp [State.getV_setV]

theorem State.getV_setV_of_ne {x y : Reg} {b : Byte} (h : y ≠ x) : (s.setV x b).getV y = s.getV y := by
  rw [State.getV_setV, if_neg (Ne.symm h)]

theorem State.key_setKey {k l : Key} {p : Bool} : (s.setKey k p).key l = if k = l then p else s.key l := by
  simp [State.key, State.setKey, Vector.getElem_set, Fin.ext_iff]

/-- A state is its register file and the rest. -/
theorem State.eq_of_v {t : State} (h : t = { s with v := t.v }) (hv : ∀ r, t.getV r = s.getV r) : t = s := by
  have : t.v = s.v := by
    apply Vector.ext
    intro r hr
    exact hv ⟨r, hr⟩
  rw [h, this]

/-- Result and flag (R142): the one written last stays when `x` is VF. -/
theorem State.getV_writeResultFlag {x r : Reg} {b : Byte} {f : Bool} :
    (s.writeResultFlag x b f).getV r =
      if r = vf ∧ (x ≠ vf ∨ s.cfg.flagWriteLast = true) then flagByte f else if r = x then b else s.getV r := by
  unfold State.writeResultFlag
  split
  · rename_i hl
    simp only [State.getV_setV, hl, or_true, and_true, @eq_comm _ vf r, @eq_comm _ x r]
  · rename_i hl
    simp only [State.getV_setV, hl, Bool.false_eq_true, or_false, @eq_comm _ vf r, @eq_comm _ x r]
    by_cases hx : r = x
    · by_cases hv : r = vf
      · have hxv : x = vf := hx ▸ hv
        rw [if_pos hx, if_neg fun h => h.2 hxv, if_pos hx]
      · rw [if_pos hx, if_neg fun h => hv h.1, if_pos hx]
    · by_cases hv : r = vf
      · rw [if_neg hx, if_pos hv, if_pos ⟨hv, fun h => hx (hv.trans h.symm)⟩]
      · rw [if_neg hx, if_neg hv, if_neg fun h => hv h.1, if_neg hx]

/-- Loading consecutive registers: the named ones hold the bytes, every other one is unchanged (R218). -/
theorem State.getV_setVsFrom {k : Nat} {bs : List Byte} {r : Reg} (h : k + bs.length ≤ 16) :
    (s.setVsFrom k bs).getV r = if hr : k ≤ r.val ∧ r.val < k + bs.length then bs[r.val - k]'(by omega) else s.getV r := by
  induction bs generalizing s k with
  | nil => rw [dif_neg (by simp)]; rfl
  | cons b bs ih =>
    simp only [List.length_cons] at h
    unfold State.setVsFrom
    rw [dif_pos (show k < 16 by omega), ih (by omega)]
    by_cases h1 : r.val = k
    · rw [dif_neg (by omega), dif_pos (by simp only [List.length_cons]; omega)]
      simp [State.getV_setV, Fin.ext_iff, h1]
    · by_cases h2 : k + 1 ≤ r.val ∧ r.val < k + 1 + bs.length
      · rw [dif_pos h2, dif_pos (by simp only [List.length_cons]; omega)]
        rw [List.getElem_cons, dif_neg (by omega)]
        congr 1
      · rw [dif_neg h2, dif_neg (by simp only [List.length_cons]; omega)]
        exact State.getV_setV_of_ne (by simp [Fin.ext_iff, h1])

@[simp] theorem State.length_firstVs {x : Reg} : (s.firstVs x).length = x.val + 1 := by
  simp [State.firstVs]

theorem State.getElem_firstVs {x : Reg} {k : Nat} (h : k < (s.firstVs x).length) :
    (s.firstVs x)[k] = s.getV ⟨k, by simp at h; omega⟩ := by
  simp [State.firstVs, State.getV]

/-! ### Block accesses -/

/-- A block read answers the bytes when every address is in the arena, else the lowest failing address (R51, R171). -/
theorem State.readBlock_eq {a n : Nat} : s.readBlock a n =
    if n = 0 ∨ a + n ≤ 0x1000 then .ok ((List.range n).map fun k => s.readByte (a + k))
    else .error (.memOutOfRange (max a 0x1000)) := by
  induction n generalizing a with
  | zero => simp [State.readBlock]
  | succ n ih =>
    unfold State.readBlock State.memRead
    by_cases ha : a > 0xFFF
    · rw [if_pos ha, if_neg (by omega)]
      simp only [Except.error.injEq, Fault.memOutOfRange.injEq]
      omega
    · rw [if_neg ha]
      simp only [ih]
      by_cases hn : n = 0 ∨ a + 1 + n ≤ 0x1000
      · rw [if_pos hn, if_pos (by omega)]
        simp only [List.range_succ_eq_map, List.map_cons, List.map_map, Function.comp_def, Nat.add_zero]
        congr 2
        exact List.map_congr_left fun k _ => by congr 1; omega
      · rw [if_neg hn, if_neg (by omega)]
        simp only [Except.error.injEq, Fault.memOutOfRange.injEq]
        omega

/-- The check of a block store: MemOutOfRange at the lowest failing address, else FontWrite at the block's start (R216,
R217, R243). No instruction's block is longer than 16 bytes. -/
theorem State.writeBlockFault_eq {a n : Nat} (hn : 0 < n) (h16 : n ≤ 16) : s.writeBlockFault a n =
    if a + n > 0x1000 then some (.memOutOfRange (max a 0x1000))
    else if a ≤ 0x04F ∧ s.cfg.fontWritePolicy = .fault then some (.fontWrite a) else none := by
  induction n generalizing a with
  | zero => omega
  | succ n ih =>
    unfold State.writeBlockFault State.memWriteFault
    by_cases ha : a > 0xFFF
    · rw [if_pos ha, if_pos (by omega)]
      simp only [Option.some.injEq, Fault.memOutOfRange.injEq]
      omega
    · rw [if_neg ha]
      by_cases hf : a ≤ 0x04F ∧ s.cfg.fontWritePolicy = .fault
      · rw [if_pos hf, if_neg (by omega)]
      · rw [if_neg hf]
        cases n with
        | zero => rw [if_neg (by omega)]; rfl
        | succ n =>
          simp only
          rw [ih (by omega) (by omega)]
          have hf' : ¬(a + 1 ≤ 0x04F ∧ s.cfg.fontWritePolicy = .fault) := fun h => hf ⟨by omega, h.2⟩
          rw [if_neg hf']
          by_cases hr : a + 1 + (n + 1) > 0x1000
          · rw [if_pos hr, if_pos (by omega)]
            simp only [Option.some.injEq, Fault.memOutOfRange.injEq]
            omega
          · rw [if_neg hr, if_neg (by omega)]

/-! ### The stack and the faults -/

theorem State.push_of_lt {w : Word} (h : s.sp.val < 16) :
    s.push w = .ok { s with stack := s.stack.set s.sp.val w, sp := ⟨s.sp.val + 1, by omega⟩ } := dif_pos h

theorem State.push_of_full {w : Word} (h : s.sp.val = 16) : s.push w = .error (.stackOverflow s.instrAddr) :=
  dif_neg (by omega)

theorem State.pop_of_pos (h : 0 < s.sp.val) :
    s.pop = .ok (s.stack[s.sp.val - 1], { s with sp := ⟨s.sp.val - 1, by omega⟩ }) := dif_pos h

theorem State.pop_of_empty (h : s.sp.val = 0) : s.pop = .error (.stackUnderflow s.instrAddr) := dif_neg (by omega)

/-- A fault raised after the advance leaves the state as it was before the step, but for the status (R241). -/
@[simp] theorem State.raise_advance {f : Fault} : s.advance.raise f = s.recordFault f := by
  simp [State.raise, State.advance, State.recordFault, State.instrAddr]

@[simp] theorem State.instrAddr_advance : s.advance.instrAddr = s.pc := by
  simp [State.advance, State.instrAddr]

/-! ### Operands and flags -/

theorem addMod_toNat {a b : Byte} : (addMod a b).toNat = (a.toNat + b.toNat) % 256 := by simp [addMod]

theorem subMod_toNat {a b : Byte} : (subMod a b).toNat = (a.toNat + 256 - b.toNat) % 256 := by simp [subMod]

theorem keyIndex_of_lt {b : Byte} (h : b.toNat < 16) : keyIndex b = some ⟨b.toNat, h⟩ := dif_pos h

theorem keyIndex_of_ge {b : Byte} (h : ¬b.toNat < 16) : keyIndex b = none := dif_neg h

theorem addrOperand_toNat {nnn : Addr12} : (addrOperand nnn).toNat = nnn.toNat := by
  have := nnn.isLt
  simp only [addrOperand, BitVec.truncate_eq_setWidth, BitVec.toNat_setWidth]
  omega

theorem State.offsetTarget_toNat {nnn : Addr12} : (s.offsetTarget nnn).toNat = (s.getV 0).toNat + nnn.toNat := by
  have := nnn.isLt
  have := (s.getV 0).isLt
  simp only [State.offsetTarget, BitVec.toNat_ofNat]
  omega

end Sys2Proof.Machine
end

