-- ==== Sys2Proof/Laws/Draw.lean ====
section
/-!
SUPPORT. What the XOR blit does, said once: a pixel changes exactly when a set sprite bit lands on it, and the collision is
that a set sprite bit landed on a lit pixel (R171).
-/
namespace Sys2Proof.Machine

theorem pixelOf_togglePixel {fb : Vector PixelRow 32} {x u : Fin 64} {y w : Fin 32} :
    pixelOf (togglePixel fb x y) u w = (pixelOf fb u w ^^ decide ((x, y) = (u, w))) := by
  unfold pixelOf togglePixel
  by_cases hy : y = w
  · subst hy
    simp [Fin.ext_iff, @eq_comm _ u.val x.val]
  · have : ¬(y.val = w.val) := fun h => hy (Fin.ext h)
    simp [this, hy]

/-- The blit over pixels that are all different. -/
theorem foldl_blitPixel {bits : List (Fin 64 × Fin 32)} (h : bits.Nodup) (acc : Vector PixelRow 32 × Bool) :
    (∀ u w, pixelOf (bits.foldl blitPixel acc).1 u w = (pixelOf acc.1 u w ^^ decide ((u, w) ∈ bits))) ∧
    (bits.foldl blitPixel acc).2 = (acc.2 || bits.any fun p => pixelOf acc.1 p.1 p.2) := by
  induction bits generalizing acc with
  | nil => simp
  | cons p bits ih =>
    obtain ⟨hp, hn⟩ := List.nodup_cons.1 h
    obtain ⟨ih1, ih2⟩ := ih hn (blitPixel acc p)
    constructor
    · intro u w
      rw [List.foldl_cons, ih1, blitPixel, pixelOf_togglePixel]
      by_cases huw : p = (u, w)
      · subst huw; simp [hp]
      · simp [huw, Ne.symm huw]
    · rw [List.foldl_cons, ih2, List.any_cons]
      have : (bits.any fun q => pixelOf (blitPixel acc p).1 q.1 q.2) = bits.any fun q => pixelOf acc.1 q.1 q.2 := by
        rw [Bool.eq_iff_iff]
        simp only [List.any_eq_true]
        refine exists_congr fun q => and_congr_right fun hq => ?_
        have : ¬(p.1, p.2) = (q.1, q.2) := fun he => hp (by rw [show p = q from he]; exact hq)
        simp [blitPixel, pixelOf_togglePixel, this]
      rw [this, blitPixel, Bool.or_assoc]

theorem mem_rowBits {x0 y0 : Byte} {r : Nat} {byte : Byte} {u : Fin 64} {w : Fin 32} :
    (u, w) ∈ rowBits x0 y0 r byte ↔
      ∃ b, b < 8 ∧ byte.getLsbD (7 - b) = true ∧ u.val = (x0.toNat + b) % 64 ∧ w.val = (y0.toNat + r) % 32 := by
  simp only [rowBits, List.mem_map, List.mem_filter, List.mem_range, Prod.mk.injEq, spriteX, spriteY, Fin.ext_iff, Fin.ofNat]
  constructor
  · rintro ⟨b, ⟨hb, hbit⟩, hu, hw⟩; exact ⟨b, hb, hbit, hu.symm, hw.symm⟩
  · rintro ⟨b, hb, hbit, hu, hw⟩; exact ⟨b, ⟨hb, hbit⟩, hu.symm, hw.symm⟩

theorem mem_spriteBits {x0 y0 : Byte} {r : Nat} {rows : List Byte} {u : Fin 64} {w : Fin 32} :
    (u, w) ∈ spriteBits x0 y0 r rows ↔ ∃ j b, ∃ h : j < rows.length, b < 8 ∧ (rows[j]).getLsbD (7 - b) = true ∧
      u.val = (x0.toNat + b) % 64 ∧ w.val = (y0.toNat + (r + j)) % 32 := by
  induction rows generalizing r with
  | nil => simp [spriteBits]
  | cons byte rows ih =>
    rw [spriteBits, List.mem_append, mem_rowBits, ih]
    constructor
    · rintro (⟨b, h⟩ | ⟨j, b, hj, h⟩)
      · exact ⟨0, b, by simp, h⟩
      · refine ⟨j + 1, b, by simpa using hj, ?_⟩
        rw [show r + (j + 1) = r + 1 + j by omega]
        exact h
    · rintro ⟨j, b, hj, h⟩
      cases j with
      | zero => exact .inl ⟨b, h⟩
      | succ j =>
        refine .inr ⟨j, b, by simpa using hj, ?_⟩
        rw [show r + 1 + j = r + (j + 1) by omega]
        exact h

/-- Within one draw no pixel is toggled twice: 8 columns are distinct modulo 64, at most 32 rows modulo 32 (R171). -/
theorem nodup_spriteBits {x0 y0 : Byte} {r : Nat} {rows : List Byte} (h : rows.length ≤ 32) :
    (spriteBits x0 y0 r rows).Nodup := by
  induction rows generalizing r with
  | nil => exact List.nodup_nil
  | cons byte rows ih =>
    simp only [List.length_cons] at h
    rw [spriteBits, List.nodup_append]
    refine ⟨?_, ih (by omega), ?_⟩
    · refine List.Nodup.map_on ?_ (List.Nodup.filter _ List.nodup_range)
      intro a ha b hb hab
      simp only [List.mem_filter, List.mem_range] at ha hb
      simp only [spriteX, Prod.mk.injEq, Fin.ext_iff, Fin.ofNat] at hab
      omega
    · rintro ⟨u, w⟩ h1 ⟨u', w'⟩ h2 he
      obtain ⟨b, _, _, _, hw⟩ := mem_rowBits.1 h1
      obtain ⟨j, b', hj, _, _, _, hw'⟩ := mem_spriteBits.1 h2
      simp only [Prod.mk.injEq, Fin.ext_iff] at he
      omega

/-- The blit of a sprite: which pixels change, and when it collides. -/
theorem blit_spriteBits {fb : Vector PixelRow 32} {x0 y0 : Byte} {rows : List Byte} (h : rows.length ≤ 32) :
    (∀ u w, pixelOf (blit fb (spriteBits x0 y0 0 rows)).1 u w =
      (pixelOf fb u w ^^ decide ((u, w) ∈ spriteBits x0 y0 0 rows))) ∧
    (blit fb (spriteBits x0 y0 0 rows)).2 = (spriteBits x0 y0 0 rows).any fun p => pixelOf fb p.1 p.2 := by
  have := foldl_blitPixel (nodup_spriteBits (x0 := x0) (y0 := y0) (r := 0) h) (fb, false)
  simpa [blit] using this

/-- The framebuffer is its pixels. -/
theorem fb_ext {fb fb' : Vector PixelRow 32} (h : ∀ u w, pixelOf fb u w = pixelOf fb' u w) : fb = fb' := by
  apply Vector.ext
  intro y hy
  apply BitVec.eq_of_getLsbD_eq
  intro x hx
  exact h ⟨x, hx⟩ ⟨y, hy⟩

/-- A cleared framebuffer has no lit pixel (R170). -/
theorem pixelOf_clearFb {u : Fin 64} {w : Fin 32} : pixelOf clearFb u w = false := by
  simp [pixelOf, clearFb]

end Sys2Proof.Machine
end

