-- ==== Sys2Proof/Laws/PerInstr.lean ====
section
/-!
SUPPORT. Statements made instruction by instruction. EncodesInRow: the word of an instruction matches the row of the opcode
map (R77) that the instruction names.
-/
namespace Sys2Proof.Laws.EncodesInRow

/-- Some row of R77 has the instruction's number, and the instruction's word has the row's fixed bits (R76, R81). -/
def Statement (i : Instr) : Prop :=
  ∃ r ∈ opcodeRows, r.num = i.rowNum ∧ r.matchesWord (encode i) = true

theorem of_mask {i : Instr} {r : OpRow} (hr : r ∈ opcodeRows) (hn : r.num = i.rowNum)
    (hm : encode i &&& r.mask = r.pattern) : Statement i :=
  ⟨r, hr, hn, by simp [OpRow.matchesWord, hm]⟩

theorem nop : Statement .nop :=
  of_mask (r := ⟨1, 0xFFFF, 0x0000⟩) (by decide) rfl rfl

theorem cls : Statement .cls :=
  of_mask (r := ⟨2, 0xFFFF, 0x00E0⟩) (by decide) rfl rfl

theorem ret : Statement .ret :=
  of_mask (r := ⟨3, 0xFFFF, 0x00EE⟩) (by decide) rfl rfl

theorem jp (nnn : Addr12) : Statement (.jp nnn) :=
  of_mask (r := ⟨4, 0xF000, 0x1000⟩) (by decide) rfl (encA_and_F000.trans rfl)

theorem call (nnn : Addr12) : Statement (.call nnn) :=
  of_mask (r := ⟨5, 0xF000, 0x2000⟩) (by decide) rfl (encA_and_F000.trans rfl)

theorem seKk (x : Reg) (kk : Byte) : Statement (.seKk x kk) :=
  of_mask (r := ⟨6, 0xF000, 0x3000⟩) (by decide) rfl (encXK_and_F000.trans rfl)

theorem sneKk (x : Reg) (kk : Byte) : Statement (.sneKk x kk) :=
  of_mask (r := ⟨7, 0xF000, 0x4000⟩) (by decide) rfl (encXK_and_F000.trans rfl)

theorem seVy (x : Reg) (y : Reg) : Statement (.seVy x y) :=
  of_mask (r := ⟨8, 0xF00F, 0x5000⟩) (by decide) rfl (encXYN_and_F00F.trans rfl)

theorem ldKk (x : Reg) (kk : Byte) : Statement (.ldKk x kk) :=
  of_mask (r := ⟨9, 0xF000, 0x6000⟩) (by decide) rfl (encXK_and_F000.trans rfl)

theorem addKk (x : Reg) (kk : Byte) : Statement (.addKk x kk) :=
  of_mask (r := ⟨10, 0xF000, 0x7000⟩) (by decide) rfl (encXK_and_F000.trans rfl)

theorem ldVy (x : Reg) (y : Reg) : Statement (.ldVy x y) :=
  of_mask (r := ⟨11, 0xF00F, 0x8000⟩) (by decide) rfl (encXYN_and_F00F.trans rfl)

theorem orVy (x : Reg) (y : Reg) : Statement (.orVy x y) :=
  of_mask (r := ⟨12, 0xF00F, 0x8001⟩) (by decide) rfl (encXYN_and_F00F.trans rfl)

theorem andVy (x : Reg) (y : Reg) : Statement (.andVy x y) :=
  of_mask (r := ⟨13, 0xF00F, 0x8002⟩) (by decide) rfl (encXYN_and_F00F.trans rfl)

theorem xorVy (x : Reg) (y : Reg) : Statement (.xorVy x y) :=
  of_mask (r := ⟨14, 0xF00F, 0x8003⟩) (by decide) rfl (encXYN_and_F00F.trans rfl)

theorem addVy (x : Reg) (y : Reg) : Statement (.addVy x y) :=
  of_mask (r := ⟨15, 0xF00F, 0x8004⟩) (by decide) rfl (encXYN_and_F00F.trans rfl)

theorem subVy (x : Reg) (y : Reg) : Statement (.subVy x y) :=
  of_mask (r := ⟨16, 0xF00F, 0x8005⟩) (by decide) rfl (encXYN_and_F00F.trans rfl)

theorem shr (x : Reg) (y : Reg) : Statement (.shr x y) :=
  of_mask (r := ⟨17, 0xF00F, 0x8006⟩) (by decide) rfl (encXYN_and_F00F.trans rfl)

theorem subnVy (x : Reg) (y : Reg) : Statement (.subnVy x y) :=
  of_mask (r := ⟨18, 0xF00F, 0x8007⟩) (by decide) rfl (encXYN_and_F00F.trans rfl)

theorem shl (x : Reg) (y : Reg) : Statement (.shl x y) :=
  of_mask (r := ⟨19, 0xF00F, 0x800E⟩) (by decide) rfl (encXYN_and_F00F.trans rfl)

theorem sneVy (x : Reg) (y : Reg) : Statement (.sneVy x y) :=
  of_mask (r := ⟨20, 0xF00F, 0x9000⟩) (by decide) rfl (encXYN_and_F00F.trans rfl)

theorem ldI (nnn : Addr12) : Statement (.ldI nnn) :=
  of_mask (r := ⟨21, 0xF000, 0xA000⟩) (by decide) rfl (encA_and_F000.trans rfl)

theorem jpV0 (nnn : Addr12) : Statement (.jpV0 nnn) :=
  of_mask (r := ⟨22, 0xF000, 0xB000⟩) (by decide) rfl (encA_and_F000.trans rfl)

theorem rnd (x : Reg) (kk : Byte) : Statement (.rnd x kk) :=
  of_mask (r := ⟨23, 0xF000, 0xC000⟩) (by decide) rfl (encXK_and_F000.trans rfl)

theorem drw (x : Reg) (y : Reg) (n : Nat) : Statement (.drw x y n) :=
  of_mask (r := ⟨24, 0xF000, 0xD000⟩) (by decide) rfl (encXYN_and_F000.trans rfl)

theorem skp (x : Reg) : Statement (.skp x) :=
  of_mask (r := ⟨25, 0xF0FF, 0xE09E⟩) (by decide) rfl (encXK_and_F0FF.trans rfl)

theorem sknp (x : Reg) : Statement (.sknp x) :=
  of_mask (r := ⟨26, 0xF0FF, 0xE0A1⟩) (by decide) rfl (encXK_and_F0FF.trans rfl)

theorem ldVxDt (x : Reg) : Statement (.ldVxDt x) :=
  of_mask (r := ⟨27, 0xF0FF, 0xF007⟩) (by decide) rfl (encXK_and_F0FF.trans rfl)

theorem ldVxK (x : Reg) : Statement (.ldVxK x) :=
  of_mask (r := ⟨28, 0xF0FF, 0xF00A⟩) (by decide) rfl (encXK_and_F0FF.trans rfl)

theorem ldDtVx (x : Reg) : Statement (.ldDtVx x) :=
  of_mask (r := ⟨29, 0xF0FF, 0xF015⟩) (by decide) rfl (encXK_and_F0FF.trans rfl)

theorem ldStVx (x : Reg) : Statement (.ldStVx x) :=
  of_mask (r := ⟨30, 0xF0FF, 0xF018⟩) (by decide) rfl (encXK_and_F0FF.trans rfl)

theorem addI (x : Reg) : Statement (.addI x) :=
  of_mask (r := ⟨31, 0xF0FF, 0xF01E⟩) (by decide) rfl (encXK_and_F0FF.trans rfl)

theorem ldF (x : Reg) : Statement (.ldF x) :=
  of_mask (r := ⟨32, 0xF0FF, 0xF029⟩) (by decide) rfl (encXK_and_F0FF.trans rfl)

theorem ldB (x : Reg) : Statement (.ldB x) :=
  of_mask (r := ⟨33, 0xF0FF, 0xF033⟩) (by decide) rfl (encXK_and_F0FF.trans rfl)

theorem storeBlock (x : Reg) : Statement (.storeBlock x) :=
  of_mask (r := ⟨34, 0xF0FF, 0xF055⟩) (by decide) rfl (encXK_and_F0FF.trans rfl)

theorem loadBlock (x : Reg) : Statement (.loadBlock x) :=
  of_mask (r := ⟨35, 0xF0FF, 0xF065⟩) (by decide) rfl (encXK_and_F0FF.trans rfl)

end Sys2Proof.Laws.EncodesInRow
end

