-- ==== Sys2Proof/Laws/Step.lean ====
section
/-!
SUPPORT. What an instruction and a step can do, said once.
-/
namespace Sys2Proof.Machine

variable {s t : State} {r : Byte}

theorem State.storeFromI_cases {bs : List Byte} :
    (∃ f, s.writeBlockFault s.base bs.length = some f ∧ s.storeFromI bs = .next (s.raise f)) ∨
    (s.writeBlockFault s.base bs.length = none ∧ s.storeFromI bs = .next (s.storeBytes s.base bs)) := by
  unfold State.storeFromI
  cases h : s.writeBlockFault s.base bs.length with
  | none => exact .inr ⟨rfl, rfl⟩
  | some f => exact .inl ⟨f, rfl, rfl⟩

/-- A store of at most 16 bytes from `I`, in closed form (R216, R217, R243). -/
theorem State.storeFromI_eq {bs : List Byte} (h0 : 0 < bs.length) (h16 : bs.length ≤ 16) : s.storeFromI bs =
    .next (if s.i.toNat + bs.length > 0x1000 then s.raise (.memOutOfRange (max s.i.toNat 0x1000))
      else if s.i.toNat ≤ 0x04F ∧ s.cfg.fontWritePolicy = .fault then s.raise (.fontWrite s.i.toNat)
      else s.storeBytes s.i.toNat bs) := by
  unfold State.storeFromI
  rw [State.writeBlockFault_eq h0 h16]
  unfold State.base
  by_cases h1 : s.i.toNat + bs.length > 0x1000
  · rw [if_pos h1, if_pos h1]
  · by_cases h2 : s.i.toNat ≤ 0x04F ∧ s.cfg.fontWritePolicy = .fault
    · rw [if_neg h1, if_neg h1, if_pos h2, if_pos h2]
    · rw [if_neg h1, if_neg h1, if_neg h2, if_neg h2]

/-- An instruction answers a next state (no fault, no refusal). Either it raised a fault before its first write, or the
status, the keys, the parameters and the input are as before. -/
theorem exec_cases (i : Instr) (s : State) : ∃ t, exec i s = .next t ∧ ((∃ f, t = s.raise f) ∨
    (t.status = s.status ∧ t.keys = s.keys ∧ t.cfg = s.cfg ∧ t.rnd = s.rnd ∧ t.draws = s.draws)) := by
  cases i with
  | call nnn =>
    simp only [exec, execCall, State.push]
    split <;> rename_i h <;> split at h <;> cases h
    · exact ⟨_, rfl, .inr ⟨rfl, rfl, rfl, rfl, rfl⟩⟩
    · exact ⟨_, rfl, .inl ⟨_, rfl⟩⟩
  | ret =>
    simp only [exec, execRet, State.pop]
    split <;> rename_i h <;> split at h <;> cases h
    · exact ⟨_, rfl, .inr ⟨rfl, rfl, rfl, rfl, rfl⟩⟩
    · exact ⟨_, rfl, .inl ⟨_, rfl⟩⟩
  | drw x y n =>
    simp only [exec, execDrw]
    split
    · exact ⟨_, rfl, .inl ⟨_, rfl⟩⟩
    · exact ⟨_, rfl, .inr ⟨rfl, rfl, rfl, rfl, rfl⟩⟩
  | skp x =>
    simp only [exec, execSkp]
    split
    · exact ⟨_, rfl, .inr (by simp)⟩
    · exact ⟨_, rfl, .inl ⟨_, rfl⟩⟩
  | sknp x =>
    simp only [exec, execSknp]
    split
    · exact ⟨_, rfl, .inr (by simp)⟩
    · exact ⟨_, rfl, .inl ⟨_, rfl⟩⟩
  | ldVxK x =>
    simp only [exec, execLdVxK]
    split
    · exact ⟨_, rfl, .inr (by simp)⟩
    · exact ⟨_, rfl, .inr (by simp)⟩
  | ldB x =>
    rcases State.storeFromI_cases (s := s) (bs := decimalDigits (s.getV x)) with ⟨f, -, h⟩ | ⟨-, h⟩
    · exact ⟨_, h, .inl ⟨f, rfl⟩⟩
    · exact ⟨_, h, .inr (by simp)⟩
  | storeBlock x =>
    rcases State.storeFromI_cases (s := s) (bs := s.firstVs x) with ⟨f, -, h⟩ | ⟨-, h⟩
    · exact ⟨_, h, .inl ⟨f, rfl⟩⟩
    · exact ⟨_, h, .inr (by simp)⟩
  | loadBlock x =>
    simp only [exec, execLoadBlock]
    split
    · exact ⟨_, rfl, .inl ⟨_, rfl⟩⟩
    · exact ⟨_, rfl, .inr (by simp)⟩
  | _ => exact ⟨_, rfl, .inr (by simp)⟩

theorem stepWith_of_faulted {f : Fault} (h : s.status = .faulted f) : stepWith r s = .next s := by
  unfold stepWith; rw [h]

theorem stepWith_of_error {f : Fault} (h : s.status = .running) (hd : s.fetchDecode = .error f) :
    stepWith r s = .next ((s.presentRnd r).recordFault f) := by
  unfold stepWith; rw [h, hd]

theorem stepWith_of_ok {i : Instr} (h : s.status = .running) (hd : s.fetchDecode = .ok i) :
    stepWith r s = exec i (s.presentRnd r).advance := by
  unfold stepWith; rw [h, hd]

/-- A STEP does nothing, records the fault of its fetch or decode, or executes one instruction after the advance (R71). -/
theorem stepWith_cases (r : Byte) (s : State) :
    (∃ f, s.status = .faulted f ∧ stepWith r s = .next s) ∨
    (s.status = .running ∧ ∃ f, s.fetchDecode = .error f ∧ stepWith r s = .next ((s.presentRnd r).recordFault f)) ∨
    (s.status = .running ∧ ∃ i, s.fetchDecode = .ok i ∧ stepWith r s = exec i (s.presentRnd r).advance) := by
  cases hs : s.status with
  | faulted f => exact .inl ⟨f, rfl, stepWith_of_faulted hs⟩
  | running =>
    cases hd : s.fetchDecode with
    | error f => exact .inr (.inl ⟨rfl, f, rfl, stepWith_of_error hs hd⟩)
    | ok i => exact .inr (.inr ⟨rfl, i, rfl, stepWith_of_ok hs hd⟩)

/-- The fetch: in range, the two bytes at `pc`, high byte first (R53). -/
theorem State.fetchWord_of_le (h : s.pc.toNat ≤ 0xFFE) :
    s.fetchWord = .ok (s.readByte s.pc.toNat ++ s.readByte (s.pc.toNat + 1)) := if_neg (by omega)

theorem State.fetchWord_of_gt (h : 0xFFE < s.pc.toNat) : s.fetchWord = .error (.pcOutOfRange s.pc) := if_pos h

/-- When an instruction is fetched and decoded (R71, R76). -/
theorem State.fetchDecode_eq_ok {i : Instr} : s.fetchDecode = .ok i ↔ s.pc.toNat ≤ 0xFFE ∧
    decodeWord s.cfg.zeroOpcodeMode (s.readByte s.pc.toNat ++ s.readByte (s.pc.toNat + 1)) = .ok i := by
  unfold State.fetchDecode
  rcases Nat.lt_or_ge 0xFFE s.pc.toNat with h | h
  · simp [State.fetchWord_of_gt h, Nat.not_le.2 h]
  · rw [State.fetchWord_of_le h]
    simp only [h, true_and]
    split <;> simp_all

/-- When the fetch or the decode faults, and how (R53, R78, R243). -/
theorem State.fetchDecode_eq_error {f : Fault} : s.fetchDecode = .error f ↔
    (0xFFE < s.pc.toNat ∧ f = .pcOutOfRange s.pc) ∨
    (s.pc.toNat ≤ 0xFFE ∧
      (∃ e, decodeWord s.cfg.zeroOpcodeMode (s.readByte s.pc.toNat ++ s.readByte (s.pc.toNat + 1)) = .error e) ∧
      f = .unknownInstruction (s.readByte s.pc.toNat ++ s.readByte (s.pc.toNat + 1)) s.pc) := by
  unfold State.fetchDecode
  rcases Nat.lt_or_ge 0xFFE s.pc.toNat with h | h
  · simp [State.fetchWord_of_gt h, h, Nat.not_le.2 h, eq_comm]
  · rw [State.fetchWord_of_le h]
    simp only [h, true_and, Nat.not_lt.2 h, false_and, false_or]
    cases decodeWord s.cfg.zeroOpcodeMode (s.readByte s.pc.toNat ++ s.readByte (s.pc.toNat + 1)) with
    | ok i => simp
    | error e => simp [eq_comm]

/-- A draw is counted on an executing step only (log 3). -/
theorem State.countDraw_of_running (h : s.status = .running) : s.countDraw = { s with draws := s.draws + 1 } := by
  simp [State.countDraw, h]

theorem State.countDraw_of_faulted {f : Fault} (h : s.status = .faulted f) : s.countDraw = s := by
  simp [State.countDraw, h]

/-- A step is a STEP with the next draw; an executing one counts it (log 3). -/
theorem step_of_running (h : s.status = .running) :
    step s = stepWith (Config.freeRnd s.draws) { s with draws := s.draws + 1 } := by
  rw [step, State.countDraw_of_running h]

theorem step_of_faulted {f : Fault} (h : s.status = .faulted f) : step s = .next s := by
  rw [step, State.countDraw_of_faulted h, stepWith_of_faulted h]

@[simp] theorem State.fetchDecode_countDraw : s.countDraw.fetchDecode = s.fetchDecode := by
  unfold State.countDraw
  split <;> rfl

end Sys2Proof.Machine
end

