-- ==== Sys2Proof/Tests/Slice0.lean ====
section
/-!
SUPPORT. The model's own tests: the well-formedness smoke test, a word written out from the spec's table for every
constructor, single steps with the expected values of `95_test_vectors.md` (its vector's name in each docstring), and for
each statement with hypotheses a witness that meets them together.
-/
namespace Sys2Proof.Tests
open Sys2Proof Sys2Proof.Machine

/-! ### Helpers -/

/-- The state of an outcome. -/
def after (r : Result) : State := stateAfter State.reset r

/-- One STEP of a word at the state's `pc`, with the draw 0xA7. -/
def run (s : State) (w : Nat) : State := after (stepWith 0xA7 (s.withFetchWord 16 w))

/-- Reset, with some registers set. -/
def withVs (l : List (Reg × Byte)) : State := l.foldl (fun s p => s.setV p.1 p.2) State.reset

/-- Reset, with `I` and some registers set. -/
def withI (i : Word) (l : List (Reg × Byte)) : State := (withVs l).setI i

/-- Reset, with a stack pointer and slot 0 holding 0x202. -/
def withSp (n : Fin 17) : State := { State.reset with sp := n, stack := State.reset.stack.set 0 0x202 }

/-- Reset, with other parameters. -/
def withCfg (c : Config) : State := { State.reset with cfg := c }

/-- A faulted state. -/
def faulted : State := { State.reset with dt := 3, st := 1, status := .faulted (.stackUnderflow 0x200) }

/-- The status a MemOutOfRange leaves. -/
def memFault (a : Nat) : Status := .faulted (.memOutOfRange a)

/-! ### Well-formedness -/

theorem test_wf_refuses_sixteen_rows : (Instr.drw 0 0 16).wf .nop0000 = false := by decide

theorem test_wf_accepts_fifteen_rows : (Instr.drw 0 0 15).wf .nop0000 = true := by decide

theorem test_wf_refuses_nop_under_fault : Instr.nop.wf .fault = false := by decide

theorem test_wf_accepts_nop_elsewhere : Instr.nop.wf .nop0000 = true ∧ Instr.nop.wf .sysIgnore = true := by decide

/-! ### Decoding: words written out bit by bit from R77 -/

theorem test_decode_control_flow :
    decodeTableWord 16 0b0000000000000000 = some .nop ∧ decodeTableWord 16 0b0000000011101110 = some .ret ∧
    decodeTableWord 16 0b0001001000110100 = some (.jp 0x234) ∧ decodeTableWord 16 0b0010001100000000 = some (.call 0x300) ∧
    decodeTableWord 16 0b1011111111111111 = some (.jpV0 0xFFF) := by decide

theorem test_decode_skips :
    decodeTableWord 16 0b0011001101000010 = some (.seKk 3 0x42) ∧
    decodeTableWord 16 0b0100001101000010 = some (.sneKk 3 0x42) ∧
    decodeTableWord 16 0b0101000100100000 = some (.seVy 1 2) ∧
    decodeTableWord 16 0b1001000100100000 = some (.sneVy 1 2) := by decide

theorem test_decode_immediates :
    decodeTableWord 16 0b0110111100110100 = some (.ldKk 0xF 0x34) ∧
    decodeTableWord 16 0b0111000011111111 = some (.addKk 0 0xFF) ∧
    decodeTableWord 16 0b1100001100001111 = some (.rnd 3 0x0F) := by decide

theorem test_decode_register_pairs :
    decodeTableWord 16 0b1000101010110000 = some (.ldVy 0xA 0xB) ∧ decodeTableWord 16 0b1000101010110001 = some (.orVy 0xA 0xB) ∧
    decodeTableWord 16 0b1000101010110010 = some (.andVy 0xA 0xB) ∧
    decodeTableWord 16 0b1000101010110011 = some (.xorVy 0xA 0xB) ∧
    decodeTableWord 16 0b1000101010110100 = some (.addVy 0xA 0xB) := by decide

/-- DE2, DE7. -/
theorem test_decode_flag_pairs :
    decodeTableWord 16 0b1000101010110101 = some (.subVy 0xA 0xB) ∧ decodeTableWord 16 0b1000101010110110 = some (.shr 0xA 0xB) ∧
    decodeTableWord 16 0b1000101010110111 = some (.subnVy 0xA 0xB) ∧
    decodeTableWord 16 0b1000101010111110 = some (.shl 0xA 0xB) := by decide

/-- DE1, DE4, DE6. -/
theorem test_decode_draw_and_index :
    decodeTableWord 16 0b0000000011100000 = some .cls ∧ decodeTableWord 16 0b1101001110100101 = some (.drw 3 0xA 5) ∧
    decodeTableWord 16 0b1010000100100011 = some (.ldI 0x123) := by decide

theorem test_decode_keypad :
    decodeTableWord 16 0b1110001010011110 = some (.skp 2) ∧ decodeTableWord 16 0b1110001010100001 = some (.sknp 2) ∧
    decodeTableWord 16 0b1111001100001010 = some (.ldVxK 3) := by decide

theorem test_decode_timers :
    decodeTableWord 16 0b1111010100000111 = some (.ldVxDt 5) ∧ decodeTableWord 16 0b1111010100010101 = some (.ldDtVx 5) ∧
    decodeTableWord 16 0b1111010100011000 = some (.ldStVx 5) := by decide

/-- DE3 among them. -/
theorem test_decode_memory :
    decodeTableWord 16 0b1111001000011110 = some (.addI 2) ∧ decodeTableWord 16 0b1111010000101001 = some (.ldF 4) ∧
    decodeTableWord 16 0b1111000000110011 = some (.ldB 0) ∧ decodeTableWord 16 0b1111001101010101 = some (.storeBlock 3) ∧
    decodeTableWord 16 0b1111001001100101 = some (.loadBlock 2) := by decide

/-- DE8 to DE15. -/
theorem test_decode_refuses :
    decodeTableWord 16 0x00E1 = none ∧ decodeTableWord 16 0x0123 = none ∧ decodeTableWord 16 0x5121 = none ∧
    decodeTableWord 16 0x8008 = none ∧ decodeTableWord 16 0x800F = none ∧ decodeTableWord 16 0x9001 = none ∧
    decodeTableWord 16 0xE09F = none ∧ decodeTableWord 16 0xF01F = none := by decide

/-- R70: the decoder takes two bytes, and a single byte is refused by name. -/
theorem test_decode_truncated : decodeBytes .nop0000 [0x12] = .error .truncated := rfl

/-! ### Fetch, faults and the run status -/

/-- FE1: a fetch at 0xFFF is out of range and leaves `pc`. -/
theorem test_fetch_out_of_range : after (stepWith 0 (State.reset.setPc 0xFFF)) =
    { State.reset with pc := 0xFFF, status := .faulted (.pcOutOfRange 0xFFF) } := by decide

/-- FE2: the last word of the arena executes. -/
theorem test_fetch_last_word : after (stepWith 0 (State.reset.setPc 0xFFE)) = State.reset.setPc 0x1000 := by decide

/-- FE5: an odd `pc` is legal, and the high byte comes first. -/
theorem test_fetch_odd : (run (State.reset.setPc 0x301) 0x6042).getV 0 = 0x42 ∧
    (run (State.reset.setPc 0x301) 0x6042).pc = 0x303 := by decide

/-- DE8: an unknown word. -/
theorem test_unknown_word : (run State.reset 0x00E1).status = .faulted (.unknownInstruction 0x00E1 0x200) ∧
    (run State.reset 0x00E1).pc = 0x200 := by decide

/-- FE6: a faulted core does nothing. -/
theorem test_faulted_step : after (stepWith 0xFF faulted) = faulted := by decide

/-- FE7: the timers go on in a faulted core. -/
theorem test_faulted_tick : transact .tick faulted = ({ faulted with dt := 2, st := 0 }, .beep true) := by decide

/-- FE9: RESET leaves it. -/
theorem test_faulted_reset : (transact .reset faulted).1 = State.reset := by decide

/-! ### Control flow -/

/-- CF19. -/
theorem test_nop : (run State.reset 0x0000).pc = 0x202 ∧ (run State.reset 0x0000).status = .running := by decide

/-- DE16: under `SYS_IGNORE`. -/
theorem test_nop_sys_ignore :
    (run (withCfg { Config.default with zeroOpcodeMode := .sysIgnore }) 0x0123).pc = 0x202 := by decide

/-- CF1. -/
theorem test_jp : (run State.reset 0x1234).pc = 0x234 := by decide

/-- CF4. -/
theorem test_call_last_slot : (run (withSp 15) 0x2300).stack[15] = 0x202 ∧ (run (withSp 15) 0x2300).sp = 16 ∧
    (run (withSp 15) 0x2300).pc = 0x300 := by decide

/-- CF5. -/
theorem test_call_overflow : (run (withSp 16) 0x2300).status = .faulted (.stackOverflow 0x200) ∧
    (run (withSp 16) 0x2300).pc = 0x200 ∧ (run (withSp 16) 0x2300).sp = 16 := by decide

/-- CF6. -/
theorem test_ret : (run (withSp 1) 0x00EE).pc = 0x202 ∧ (run (withSp 1) 0x00EE).sp = 0 ∧
    (run (withSp 1) 0x00EE).stack[0] = 0x202 := by decide

/-- CF7. -/
theorem test_ret_underflow : (run State.reset 0x00EE).status = .faulted (.stackUnderflow 0x200) ∧
    (run State.reset 0x00EE).pc = 0x200 := by decide

/-- CF9: no wrap. -/
theorem test_jp_v0 : (run (withVs [(0, 0xFF)]) 0xBFFF).pc = 0x10FE := by decide

/-- CF10, CF11. -/
theorem test_se_kk : (run (withVs [(3, 0x42)]) 0x3342).pc = 0x204 ∧ (run (withVs [(3, 0x41)]) 0x3342).pc = 0x202 := by decide

/-- CF12, CF13. -/
theorem test_sne_kk : (run (withVs [(3, 0x41)]) 0x4342).pc = 0x204 ∧ (run (withVs [(3, 0x42)]) 0x4342).pc = 0x202 := by decide

/-- CF14; CF16's registers do not skip. -/
theorem test_se_vy : (run (withVs [(1, 7), (2, 7)]) 0x5120).pc = 0x204 ∧
    (run (withVs [(1, 7), (2, 8)]) 0x5120).pc = 0x202 := by decide

/-- CF16, CF17. -/
theorem test_sne_vy : (run (withVs [(1, 7), (2, 8)]) 0x9120).pc = 0x204 ∧ (run (withVs [(1, 7)]) 0x9110).pc = 0x202 := by decide

/-! ### ALU -/

/-- AL25, AL38. -/
theorem test_ld_kk : (run (withVs [(15, 0x55)]) 0x6005).getV 0 = 0x05 ∧ (run (withVs [(15, 0x12)]) 0x6F34).getV 15 = 0x34 := by
  decide

/-- AL26: no carry. -/
theorem test_add_kk : (run (withVs [(0, 1), (15, 0x55)]) 0x70FF).getV 0 = 0 ∧
    (run (withVs [(0, 1), (15, 0x55)]) 0x70FF).getV 15 = 0x55 := by decide

/-- AL27. -/
theorem test_ld_vy : (run (withVs [(1, 0x3C)]) 0x8010).getV 0 = 0x3C := by decide

/-- AL28. -/
theorem test_or : (run (withVs [(0, 0xF0), (1, 0x0F), (15, 0x55)]) 0x8011).getV 0 = 0xFF ∧
    (run (withVs [(0, 0xF0), (1, 0x0F), (15, 0x55)]) 0x8011).getV 15 = 0x55 := by decide

/-- AL29. -/
theorem test_and : (run (withVs [(0, 0xF0), (1, 0x3C)]) 0x8012).getV 0 = 0x30 := by decide

/-- AL30. -/
theorem test_xor : (run (withVs [(0, 0xF0), (1, 0x3C)]) 0x8013).getV 0 = 0xCC := by decide

/-- AL6. -/
theorem test_add_carry : (run (withVs [(0, 0xC8), (1, 0x64)]) 0x8014).getV 0 = 0x2C ∧
    (run (withVs [(0, 0xC8), (1, 0x64)]) 0x8014).getV 15 = 1 := by decide

/-- AL32, AL33: the order of the two writes shows when Vx is VF. -/
theorem test_add_into_vf : (run (withVs [(15, 0xFF), (1, 3)]) 0x8F14).getV 15 = 1 ∧
    (run { withVs [(15, 0xFF), (1, 3)] with cfg := { Config.default with flagWriteLast := false } } 0x8F14).getV 15 = 2 := by
  decide

/-- AL8. -/
theorem test_sub_borrow : (run (withVs [(0, 3), (1, 5)]) 0x8015).getV 0 = 0xFE ∧
    (run (withVs [(0, 3), (1, 5)]) 0x8015).getV 15 = 0 := by decide

/-- AL9: equal operands do not borrow. -/
theorem test_sub_equal : (run (withVs [(0, 7), (1, 7)]) 0x8015).getV 15 = 1 := by decide

/-- AL13. -/
theorem test_subn : (run (withVs [(0, 3), (1, 5)]) 0x8017).getV 0 = 2 ∧
    (run (withVs [(0, 3), (1, 5)]) 0x8017).getV 15 = 1 := by decide

/-- AL18. -/
theorem test_shr : (run (withVs [(0, 0xFF)]) 0x8016).getV 0 = 0x7F ∧ (run (withVs [(0, 0xFF)]) 0x8016).getV 15 = 1 := by decide

/-- AL40. -/
theorem test_shr_reads_vy :
    (run { withVs [(0, 0xFF), (1, 4)] with cfg := { Config.default with shiftReadsVy := true } } 0x8016).getV 0 = 2 := by decide

/-- AL21. -/
theorem test_shl : (run (withVs [(0, 0x80)]) 0x801E).getV 0 = 0 ∧ (run (withVs [(0, 0x80)]) 0x801E).getV 15 = 1 := by decide

/-- AL43. -/
theorem test_rnd : (run State.reset 0xC30F).getV 3 = 0x07 := by decide

/-! ### Draw: the sprite bytes at 0x300 -/

/-- DR1. -/
theorem test_cls : (run { withVs [(15, 0x55)] with fb := State.reset.fb.set 3 0xFF } 0x00E0).fb = State.reset.fb ∧
    (run { withVs [(15, 0x55)] with fb := State.reset.fb.set 3 0xFF } 0x00E0).getV 15 = 0x55 := by decide

/-- DR2: horizontal wrap, bit 7 leftmost. -/
theorem test_drw_wraps : (run ((withI 0x300 [(0, 63)]).storeBytes 0x300 [0xC0]) 0xD011).fb =
    State.reset.fb.set 0 (BitVec.twoPow 64 63 ||| 1) := by decide

/-- DR5: vertical wrap of the start, and a collision. -/
theorem test_drw_collides :
    (run ({ withI 0x300 [(0, 0x45), (1, 0x23)] with fb := State.reset.fb.set 3 32 }.storeBytes 0x300 [0x80]) 0xD011).fb =
      State.reset.fb ∧
    (run ({ withI 0x300 [(0, 0x45), (1, 0x23)] with fb := State.reset.fb.set 3 32 }.storeBytes 0x300 [0x80]) 0xD011).getV 15 =
      1 := by decide

/-- DR9: N = 0 reads nothing. -/
theorem test_drw_no_rows : (run (withI 0xFFFF [(15, 1)]) 0xD000).getV 15 = 0 ∧
    (run (withI 0xFFFF [(15, 1)]) 0xD000).status = .running := by decide

/-- DR12, DR13: the lowest failing address. -/
theorem test_drw_out_of_range : (run (withI 0xFF2 []) 0xD00F).status = memFault 0x1000 ∧
    (run (withI 0x1005 []) 0xD001).status = memFault 0x1005 := by decide

/-! ### Keypad -/

/-- KP1, KP2. -/
theorem test_skp : (run ((withVs [(2, 5)]).setKey 5 true) 0xE29E).pc = 0x204 ∧ (run (withVs [(2, 5)]) 0xE29E).pc = 0x202 := by
  decide

/-- KP3, KP4. -/
theorem test_sknp : (run (withVs [(2, 5)]) 0xE2A1).pc = 0x204 ∧ (run ((withVs [(2, 5)]).setKey 5 true) 0xE2A1).pc = 0x202 := by
  decide

/-- KP5, KP6. -/
theorem test_key_index : (run (withVs [(2, 0x10)]) 0xE29E).status = .faulted (.keyIndexOutOfRange 0x10) ∧
    (run (withVs [(2, 0xFF)]) 0xE2A1).status = .faulted (.keyIndexOutOfRange 0xFF) := by decide

/-- KP7. -/
theorem test_key_wait : (run State.reset 0xF30A).pc = 0x200 ∧ (run State.reset 0xF30A).status = .running := by decide

/-- KP9: the lowest index. -/
theorem test_key_taken : (run ((State.reset.setKey 9 true).setKey 3 true) 0xF40A).getV 4 = 3 ∧
    (run ((State.reset.setKey 9 true).setKey 3 true) 0xF40A).pc = 0x202 := by decide

/-! ### Timers, index register, memory -/

/-- TM7. -/
theorem test_ld_vx_dt : (run { State.reset with dt := 0x3C } 0xF507).getV 5 = 0x3C := by decide

/-- TM8. -/
theorem test_ld_dt_vx : (run (withVs [(5, 0x3C)]) 0xF515).dt = 0x3C ∧ (run (withVs [(5, 0x3C)]) 0xF515).st = 0 := by decide

/-- TM10, without its TICK. -/
theorem test_ld_st_vx : (run { withVs [(0, 5)] with st := 1 } 0xF018).st = 5 ∧ (run (withVs [(0, 5)]) 0xF018).dt = 0 := by decide

/-- TM2 and TM5. -/
theorem test_tick : transact .tick { State.reset with dt := 1, st := 1 } = (State.reset, .beep true) ∧
    (transact .tick { State.reset with dt := 0xFF }).1.dt = 0xFE := by decide

/-- IM1. -/
theorem test_ld_i : (run State.reset 0xA123).i = 0x123 := by decide

/-- IM3, IM4. -/
theorem test_add_i : (run (withI 0xFFFF [(0, 1), (15, 7)]) 0xF01E).i = 0 ∧ (run (withI 0x0FFF [(0, 1)]) 0xF01E).i = 0x1000 := by
  decide

/-- IM6, IM7. -/
theorem test_ld_f : (run (withVs [(4, 7)]) 0xF429).i = 0x023 ∧ (run (withVs [(0, 0xF3)]) 0xF029).i = 0x00F := by decide

/-- IM15. -/
theorem test_ld_b : (run (withI 0x300 [(0, 156)]) 0xF033).readByte 0x300 = 1 ∧
    (run (withI 0x300 [(0, 156)]) 0xF033).readByte 0x301 = 5 ∧
    (run (withI 0x300 [(0, 156)]) 0xF033).readByte 0x302 = 6 := by decide

/-- IM22, IM23. -/
theorem test_ld_b_faults : (run (withI 0x04E [(0, 1)]) 0xF033).status = .faulted (.fontWrite 0x04E) ∧
    (run (withI 0xFFE []) 0xF033).status = memFault 0x1000 := by decide

/-- IM17. -/
theorem test_store_block : (run (withI 0x400 [(0, 1), (1, 2), (2, 3)]) 0xF255).readByte 0x400 = 1 ∧
    (run (withI 0x400 [(0, 1), (1, 2), (2, 3)]) 0xF255).readByte 0x402 = 3 ∧
    (run (withI 0x400 [(0, 1), (1, 2), (2, 3)]) 0xF255).i = 0x400 := by decide

/-- IM20, IM24: nothing is written. -/
theorem test_store_block_faults : (run (withI 0x04D []) 0xF355).status = .faulted (.fontWrite 0x04D) ∧
    (run (withI 0xFF5 []) 0xFF55).status = memFault 0x1000 ∧ (run (withI 0xFF5 [(0, 9)]) 0xFF55).readByte 0xFF5 = 0 := by decide

/-- IM27: reading the font is legal. -/
theorem test_load_block : (run (withI 0x000 []) 0xF465).getV 0 = 0xF0 ∧ (run (withI 0x000 []) 0xF465).getV 4 = 0xF0 ∧
    (run (withI 0x000 []) 0xF465).getV 5 = 0 := by decide

/-- IM26. -/
theorem test_load_block_faults : (run (withI 0xFF1 []) 0xFF65).status = memFault 0x1000 := by decide

/-- P6c on a fresh core: the bytes go to 0x200 on. -/
theorem test_load_rom : (transact (.loadRom [0x60, 0x07]) State.reset).1.readByte 0x200 = 0x60 ∧
    (transact (.loadRom [0x60, 0x07]) State.reset).1.readByte 0x201 = 0x07 := by decide

/-! ### Memory keeps one form -/

/-- Writing back what an address reads as unlisted removes its entry. -/
theorem test_memory_canonical : ((State.reset.storeByte 0x300 7).storeByte 0x300 0).mem = [] ∧
    ((State.reset.storeByte 0x000 7).storeByte 0x000 0xF0).mem = [] := by decide

/-! ### Witnesses: states and operands that meet a statement's hypotheses, one for each clause, at its boundary -/

/-- ResetSnapshot, ResetClearsEverything: the last font byte, the first after it and the last of the arena. -/
theorem witness_reset_memory : State.reset.readByte 79 = 0x80 ∧ State.reset.readByte 0x050 = 0 ∧
    State.reset.readByte 0xFFF = 0 := by decide

theorem witness_decode_of_encode : (Instr.drw 15 15 15).wf .fault = true ∧ Instr.nop.wf .sysIgnore = true := by decide

theorem witness_encode_of_decode : decodeWord .sysIgnore 0xDABF = .ok (.drw 0xA 0xB 15) ∧
    decodeWord .sysIgnore 0x0123 = .ok .nop := ⟨rfl, rfl⟩

/-- DispatchIsTheOpcodeMap: a row that matches a word, and a word that decodes. -/
theorem witness_dispatch : (∃ r ∈ opcodeRows, r.matchesWord 0xF065 = true) ∧
    decodeWord .nop0000 0xF065 = .ok (.loadBlock 0) := ⟨⟨⟨35, 0xF0FF, 0xF065⟩, by decide⟩, rfl⟩

/-- IllegalWords: a word of each clause, and one outside all of them, by the decoder's answer. -/
theorem witness_illegal_words : decodeWord .nop0000 0x0001 = .error (.unknownInstruction 0x0001) ∧
    decodeWord .fault 0x0000 = .error (.unknownInstruction 0x0000) ∧
    decodeWord .nop0000 0x5FFF = .error (.unknownInstruction 0x5FFF) ∧
    decodeWord .nop0000 0x800D = .error (.unknownInstruction 0x800D) ∧
    decodeWord .nop0000 0x9001 = .error (.unknownInstruction 0x9001) ∧
    decodeWord .nop0000 0xE0A0 = .error (.unknownInstruction 0xE0A0) ∧
    decodeWord .nop0000 0xF066 = .error (.unknownInstruction 0xF066) ∧
    decodeWord .sysIgnore 0x0001 = .ok .nop := ⟨rfl, rfl, rfl, rfl, rfl, rfl, rfl, rfl⟩

/-- FetchIsBigEndian: both sides of the bound. -/
theorem witness_fetch : 0xFFE < (State.reset.setPc 0xFFF).pc.toNat ∧ (State.reset.setPc 0xFFE).pc.toNat ≤ 0xFFE ∧
    (State.reset.setPc 0xFFE).fetchWord = .ok 0x0000 := ⟨by decide, by decide, rfl⟩

/-- StepRunsTheDecodedInstruction, at the last address that can be fetched. -/
theorem witness_step_runs : (State.reset.setPc 0xFFE).status = .running ∧ (State.reset.setPc 0xFFE).pc.toNat ≤ 0xFFE ∧
    decodeWord (State.reset.setPc 0xFFE).cfg.zeroOpcodeMode
      ((State.reset.setPc 0xFFE).readByte (State.reset.setPc 0xFFE).pc.toNat ++
        (State.reset.setPc 0xFFE).readByte ((State.reset.setPc 0xFFE).pc.toNat + 1)) = .ok .nop := ⟨rfl, by decide, rfl⟩

/-- FetchAndDecodeFaults: the second clause; the first is `witness_fetch`. The font's first word 0xF090 matches no row. -/
theorem witness_decode_fault : (State.reset.setPc 0).status = .running ∧ (State.reset.setPc 0).pc.toNat ≤ 0xFFE ∧
    (State.reset.setPc 0).readByte 0 ++ (State.reset.setPc 0).readByte 1 = (0xF090 : Word) ∧
    decodeWord (State.reset.setPc 0).cfg.zeroOpcodeMode 0xF090 = .error (.unknownInstruction 0xF090) :=
  ⟨rfl, by decide, by decide, rfl⟩

/-- FaultsArePrecise, FaultClassesAndRecords: a running STEP, and a `step`, that ends FAULTED. -/
theorem witness_precise_fault : (State.reset.setPc 0).status = .running ∧
    (∃ t, stepWith 0 (State.reset.setPc 0) = .next t ∧ t.status = .faulted (.unknownInstruction 0xF090 0)) ∧
    (∃ t, step (State.reset.setPc 0) = .next t ∧ t.status = .faulted (.unknownInstruction 0xF090 0)) :=
  ⟨rfl, ⟨_, rfl, rfl⟩, ⟨_, rfl, rfl⟩⟩

/-- FaultClassesAndRecords: one state for each other class of R240, whose STEP records it. -/
theorem witness_fault_classes :
    (after (stepWith 0 (State.reset.setPc 0xFFF))).status = .faulted (.pcOutOfRange 0xFFF) ∧
    (run (withSp 16) 0x2000).status = .faulted (.stackOverflow 0x200) ∧
    (run (withSp 0) 0x00EE).status = .faulted (.stackUnderflow 0x200) ∧
    (run (withI 0x1000 []) 0xD001).status = memFault 0x1000 ∧ (run (withI 0x1000 []) 0xF065).status = memFault 0x1000 ∧
    (run (withI 0x04F []) 0xF055).status = .faulted (.fontWrite 0x04F) ∧
    (run (withVs [(0, 16)]) 0xE09E).status = .faulted (.keyIndexOutOfRange 16) := by decide

theorem witness_faults_are_terminal : faulted.status = .faulted (.stackUnderflow 0x200) := rfl

/-- OnlyRndReadsTheDraw. -/
theorem witness_no_rnd : State.reset.status = .running ∧ (∀ x kk, State.reset.fetchDecode ≠ .ok (.rnd x kk)) ∧
    ∃ t, stepWith 1 State.reset = .next t := by
  have h : State.reset.fetchDecode = .ok .nop := rfl
  exact ⟨rfl, by simp [h], ⟨_, rfl⟩⟩

/-- NopDoesNothing: the words of `SYS_IGNORE`, at the top of the range. -/
theorem witness_sys_ignore : (0x0FFF : Word).toNat < 0x1000 ∧ (0x0FFF : Word) ≠ 0x00E0 ∧ (0x0FFF : Word) ≠ 0x00EE := by decide

/-- JumpsSetPc: both instructions, a target at the last fetchable address and the two largest ones. -/
theorem witness_jumps : (0xFFE : Nat) = (0xFFE : Addr12).toNat ∧ (0xFFF : Nat) = (0xFFF : Addr12).toNat ∧
    0xFFE < (0xFFF : Nat) ∧ 0x10FE = ((withVs [(0, 0xFF)]).getV 0).toNat + (0xFFF : Addr12).toNat ∧
    (withVs [(0, 0xFF)]).status = .running := by decide

/-- ResetClearsEverything: a faulted state and the transaction that ends it. -/
theorem witness_reset_only : faulted.status = .faulted (.stackUnderflow 0x200) ∧
    (transact .reset faulted).1.status = .running := ⟨rfl, rfl⟩

/-- SkipsAddTwo: both sides of each condition. -/
theorem witness_skips : State.reset.getV 3 = 0 ∧ State.reset.getV 3 ≠ 1 ∧ State.reset.getV 3 = State.reset.getV 4 ∧
    (withVs [(3, 1)]).getV 3 ≠ (withVs [(3, 1)]).getV 4 := by decide

/-- CallPushesAndJumps, CallThenRetReturns: the last free slot, and the full stack. -/
theorem witness_call : (withSp 15).sp.val < 16 ∧ (∃ t, exec (.call 0x300) (withSp 15) = .next t ∧ t.sp = 16) ∧
    (withSp 16).sp.val = 16 := ⟨by decide, ⟨_, rfl, rfl⟩, rfl⟩

/-- RetPopsIntoPc: the first slot, the last slot, the empty stack. -/
theorem witness_ret : (withSp 1).sp.val = (0 : Fin 16).val + 1 ∧ (withSp 16).sp.val = (15 : Fin 16).val + 1 ∧
    (withSp 0).sp.val = 0 := ⟨rfl, rfl, rfl⟩

/-- CallThenRetReturns: the state after the CALL is itself such a `u`. -/
theorem witness_call_then_ret : ∃ t u : State, exec (.call 0xFFF) (withSp 15) = .next t ∧ u.sp = t.sp ∧ u.stack = t.stack :=
  ⟨_, _, rfl, rfl, rfl⟩

/-- LoadsAndLogicWriteVx: one disjunct for each instruction. -/
theorem witness_loads_and_logic : let s := withVs [(0, 0xF0), (1, 0x3C)]
    (∃ kk, Instr.ldKk 0 5 = .ldKk 0 kk ∧ (5 : Byte) = kk) ∧ (0x3C : Byte) = s.getV 1 ∧
    (0xFC : Byte) = s.getV 0 ||| s.getV 1 ∧ (0x30 : Byte) = s.getV 0 &&& s.getV 1 ∧ (0xCC : Byte) = s.getV 0 ^^^ s.getV 1 :=
  ⟨⟨_, rfl, rfl⟩, by decide⟩

/-- AddSetsCarry: a sum of exactly 256, into a register and into VF, in both orders of the writes. -/
theorem witness_add : let s := withVs [(0, 0xFF), (15, 0xFF), (1, 1)]
    256 = (s.getV 0).toNat + (s.getV 1).toNat ∧ 256 = (s.getV 15).toNat + (s.getV 1).toNat ∧
    1 = (if 256 ≤ 256 then 1 else 0) ∧ (0 : Reg) ≠ 15 ∧ s.cfg.flagWriteLast = true ∧
    (withCfg { Config.default with flagWriteLast := false }).cfg.flagWriteLast = false := by decide

/-- SubtractSetsNotBorrow: both instructions, equal operands. -/
theorem witness_subtract : let s := withVs [(0, 7), (1, 7)]
    7 = (s.getV 0).toNat ∧ 7 = (s.getV 1).toNat ∧ 1 = (if 7 ≤ 7 then 1 else 0) := by decide

/-- ShiftsDropABitIntoVf: both instructions on 0x81, from Vx, and from Vy under `SHIFT_READS_VY`. -/
theorem witness_shifts : let s := withVs [(0, 0x81), (1, 0x81)]
    let u := { s with cfg := { Config.default with shiftReadsVy := true } }
    0x81 = (if s.cfg.shiftReadsVy = true then (s.getV 1).toNat else (s.getV 0).toNat) ∧
    0x81 = (if u.cfg.shiftReadsVy = true then (u.getV 1).toNat else (u.getV 0).toNat) ∧
    0x40 = 0x81 / 2 ∧ 1 = 0x81 % 2 ∧ 0x02 = 0x81 * 2 % 256 ∧ 1 = 0x81 / 128 := by decide

theorem witness_shifts_ignore_y : State.reset.cfg.shiftReadsVy = false := rfl

/-- RndMasksTheDraw: the second clause. -/
theorem witness_rnd : (State.reset.withFetchWord 16 0xCF0F).status = .running ∧
    (State.reset.withFetchWord 16 0xCF0F).fetchDecode = .ok (.rnd 15 0x0F) := ⟨rfl, rfl⟩

/-- DrawXorsTheSprite: no row at the top of `I`'s range, a sprite that ends at 0xFFF, and one that does not. The state of
`test_drw_collides` has a pixel that goes out. -/
theorem witness_draw : (0 = 0 ∨ (withI 0xFFFF []).i.toNat + 0 ≤ 0x1000) ∧
    (15 = 0 ∨ (withI 0xFF1 []).i.toNat + 15 ≤ 0x1000) ∧ (15 ≠ 0 ∧ 0x1000 < (withI 0xFF2 []).i.toNat + 15) := by decide

/-- DrawTwiceRestores: the coordinates are in V0 and V1, so the state after the first draw is itself such a `u`. -/
theorem witness_draw_twice : let s := withI 0x000 []
    ∃ t w, exec (.drw 0 1 5) s = .next t ∧ t.getV 0 = s.getV 0 ∧ t.getV 1 = s.getV 1 ∧ exec (.drw 0 1 5) t = .next w :=
  ⟨_, _, rfl, rfl, rfl, rfl⟩

/-- KeySkipsTestTheKey: the last key, pressed and not, and the first value that names none. -/
theorem witness_key_skips : (15 : Key).val = ((withVs [(2, 15)]).getV 2).toNat ∧
    ((withVs [(2, 15)]).setKey 15 true).key 15 = true ∧ (withVs [(2, 15)]).key 15 = false ∧
    15 < ((withVs [(2, 16)]).getV 2).toNat := by decide

/-- KeyWaitPolls: no key, and the last key, in the default order and in another. -/
theorem witness_key_wait : (∀ k, State.reset.key k = false) ∧ State.reset.cfg.wf = true ∧
    (State.reset.setKey 15 true).key 15 = true ∧ State.reset.cfg.keyScanOrder = Config.default.keyScanOrder ∧
    ({ Config.default with keyScanOrder := Config.ascendingKeys.reverse } : Config).wf = true := by decide

/-- AwaitingKeyWaits. -/
theorem witness_awaiting_key : (State.reset.withFetchWord 16 0xF30A).awaitingKey = true ∧
    ∀ k, (State.reset.withFetchWord 16 0xF30A).key k = false := ⟨rfl, by decide⟩

/-- DecimalDigitsStored: the last place that fits, the first past the font, the font under ALLOW, both faults. -/
theorem witness_decimal_digits : Memory.wf State.reset.cfg State.reset.mem = true ∧
    (withI 0xFFD []).i.toNat + 2 ≤ 0xFFF ∧ 0x04F < (withI 0x050 []).i.toNat ∧
    (withCfg { Config.default with fontWritePolicy := .allow }).cfg.fontWritePolicy = .allow ∧
    Memory.wf (withCfg { Config.default with fontWritePolicy := .allow }).cfg [] = true ∧
    0xFFF < (withI 0xFFE []).i.toNat + 2 ∧ (withI 0x04F []).i.toNat ≤ 0x04F ∧
    (withI 0x04F []).cfg.fontWritePolicy = .fault := by decide

/-- BlockStoreWritesMemory, BlockLoadReadsMemory, BlockStoreThenLoad: all sixteen registers at the top, one register past
the font, and one byte too far. -/
theorem witness_block : (withI 0xFF0 []).i.toNat + (15 : Reg).val ≤ 0xFFF ∧ 0x04F < (withI 0xFF0 []).i.toNat ∧
    0x04F < (withI 0x050 []).i.toNat ∧ 0xFFF < (withI 0xFF1 []).i.toNat + (15 : Reg).val ∧
    Memory.wf (withI 0xFF0 []).cfg (withI 0xFF0 []).mem = true := by decide

/-- BlockStoreThenLoad: the state after the store is itself such a `u`. -/
theorem witness_store_then_load : ∃ t w, exec (.storeBlock 1) (withI 0x300 [(0, 0xAB)]) = .next t ∧
    exec (.loadBlock 1) t = .next w ∧ w.getV 0 = 0xAB := ⟨_, _, rfl, rfl, rfl⟩

/-- StoreIsSeenByTheFetch, with the last two of the stored bytes. -/
theorem witness_store_then_fetch : let s := withI 0xFF0 [(14, 0x12), (15, 0x34)]
    ∃ t, exec (.storeBlock 15) s = .next t ∧ (15 : Reg).val = (14 : Reg).val + 1 ∧
      (t.setPc 0xFFE).pc.toNat = s.i.toNat + (14 : Reg).val ∧ (t.setPc 0xFFE).fetchWord = .ok 0x1234 :=
  ⟨_, rfl, rfl, rfl, rfl⟩

/-- LoadRomCopiesVerbatim: the longest byte string, and one byte more. -/
theorem witness_load_rom : Memory.wf State.reset.cfg State.reset.mem = true ∧ (List.replicate 3584 (0x11 : Byte)).length ≤ 3584 ∧
    3584 < (List.replicate 3585 (0x11 : Byte)).length := by
  simp only [List.length_replicate]
  decide

/-- StepKeepsInvariant, TransactionsKeepInvariant, FontIsNeverWritten: the reset state meets the premises, a step and
transactions go on from it. -/
theorem witness_invariant : State.reset.Inv ∧ State.reset.FontIntact ∧ State.reset.cfg.fontWritePolicy = .fault ∧
    (∃ t, step State.reset = .next t) ∧ Reaches State.reset (transact (.step 0) State.reset).1 :=
  ⟨⟨rfl, by decide, by decide, by decide, by intro f a h; cases h⟩, fun a h => dif_pos h, rfl, ⟨_, rfl⟩,
    .next _ _ _ (.refl _)⟩

/-- The whole-machine rules: a STEP that changes DT, one that changes ST, the framebuffer, SP and the stack. -/
theorem witness_only_by : (∃ t, stepWith 0 ((withVs [(5, 1)]).withFetchWord 16 0xF515) = .next t ∧ t.dt ≠ 0) ∧
    (∃ t, stepWith 0 ((withVs [(5, 1)]).withFetchWord 16 0xF518) = .next t ∧ t.st ≠ 0) ∧
    (∃ t, stepWith 0 (State.reset.withFetchWord 16 0xD015) = .next t ∧ t.fb ≠ State.reset.fb) ∧
    (∃ t, stepWith 0 (State.reset.withFetchWord 16 0x2300) = .next t ∧ t.sp ≠ 0 ∧ t.stack ≠ State.reset.stack) :=
  ⟨⟨_, rfl, by decide⟩, ⟨_, rfl, by decide⟩, ⟨_, rfl, by decide⟩, ⟨_, rfl, by decide, by decide⟩⟩

/-- The whole-machine rules: a STEP that changes `I`, a byte of memory, VF. -/
theorem witness_only_by_rest : (∃ t, stepWith 0 (State.reset.withFetchWord 16 0xA123) = .next t ∧ t.i ≠ 0) ∧
    (∃ t, stepWith 0 ((withI 0x300 [(0, 1)]).withFetchWord 16 0xF055) = .next t ∧ t.readByte 0x300 ≠ 0) ∧
    (∃ t, stepWith 0 ((withI 0x300 [(0, 1)]).withFetchWord 16 0xF033) = .next t ∧ t.readByte 0x302 ≠ 0) ∧
    (∃ t, stepWith 0 (State.reset.withFetchWord 16 0x6F01) = .next t ∧ t.getV 15 ≠ 0) :=
  ⟨⟨_, rfl, by decide⟩, ⟨_, rfl, by decide⟩, ⟨_, rfl, by decide⟩, ⟨_, rfl, by decide⟩⟩

/-- PlacedWordIsFetched, from a faulted state whose `pc` is outside the arena. -/
theorem witness_placed_word : Memory.wf (faulted.setPc 0x1000).cfg (faulted.setPc 0x1000).mem = true ∧
    ((faulted.setPc 0x1000).withFetchWord 16 0x1234).fetchWord = .ok 0x1234 := ⟨rfl, rfl⟩

end Sys2Proof.Tests
end

section
/-!
PROOFS. The reset state (`10_state.md` R35): what it reads as, and the obligation of this family.
-/
namespace Sys2Proof.Machine

/-! ### Memory that lists nothing -/

theorem Memory.unlisted_of_lt {c : Config} {a : Nat} (h : a < 80) : Memory.unlisted c a = c.fontTable[a] := dif_pos h

theorem Memory.unlisted_of_ge {c : Config} {a : Nat} (h : 80 ≤ a) : Memory.unlisted c a = 0 := dif_neg (by omega)

theorem State.readByte_of_mem_nil {s : State} {a : Nat} (h : s.mem = []) : s.readByte a = Memory.unlisted s.cfg a := by
  simp only [State.readByte, Memory.read, h, Memory.lookup, Option.getD_none]

/-! ### What the reset state reads as -/

@[simp] theorem State.getV_reset (x : Reg) : State.reset.getV x = 0 := Vector.getElem_replicate x.isLt

theorem State.stack_reset (j : Fin 16) : State.reset.stack[j] = 0 := Vector.getElem_replicate j.isLt

@[simp] theorem State.key_reset (k : Key) : State.reset.key k = false := Vector.getElem_replicate k.isLt

/-- The reset framebuffer is the cleared one. -/
@[simp] theorem State.pixel_reset (x : Fin 64) (y : Fin 32) : State.reset.pixel x y = false := pixelOf_clearFb

theorem State.readByte_reset_font {a : Nat} (h : a < 80) : State.reset.readByte a = Config.default.fontTable[a] :=
  (State.readByte_of_mem_nil rfl).trans (Memory.unlisted_of_lt h)

theorem State.readByte_reset_of_ge {a : Nat} (h : 80 ≤ a) : State.reset.readByte a = 0 :=
  (State.readByte_of_mem_nil rfl).trans (Memory.unlisted_of_ge h)

/-- Settles O1: the scalars are the literals of `State.reset`; each array and each half of memory has its lemma. -/
theorem resetSnapshot : Obligations.ResetSnapshot := by
  unfold Obligations.ResetSnapshot
  exact ⟨State.getV_reset, rfl, rfl, rfl, State.stack_reset, rfl, rfl, State.key_reset, State.pixel_reset,
    fun _ h => State.readByte_reset_font h, fun _ h _ => State.readByte_reset_of_ge h, rfl⟩

end Sys2Proof.Machine
end

section
/-!
PROOFS. Control flow (`40_control_flow.md`): the four skips on a comparison.
-/
namespace Sys2Proof.Machine

/-! ### What a skip answers (R109) -/

@[simp] theorem State.skipIf_pc (s : State) (c : Bool) : (s.skipIf c).pc = if c then s.pc + 2 else s.pc := by
  cases c <;> rfl

theorem State.skipIf_frame (s : State) (c : Bool) : s.skipIf c = { s with pc := (s.skipIf c).pc } := by
  cases c <;> rfl

/-- A skip whose test `c` is true under `p` and false under `q`, in the shape R105 to R108 are stated in. -/
theorem State.skipIf_adds_two (s : State) {c : Bool} {p q : Prop} (hp : p → c = true) (hq : q → c = false) :
    ∃ t, (.next (s.skipIf c) : Result) = .next t ∧ t = { s with pc := t.pc } ∧ (p → t.pc = s.pc + 2) ∧ (q → t.pc = s.pc) := by
  refine ⟨s.skipIf c, rfl, s.skipIf_frame c, fun h => ?_, fun h => ?_⟩
  · rw [State.skipIf_pc, hp h, if_pos rfl]
  · rw [State.skipIf_pc, hq h, if_neg Bool.false_ne_true]

/-- Settles O19: each instruction is `skipIf` on a comparison, which is true on one side of the condition and false on the
other. -/
theorem skipsAddTwo : Obligations.SkipsAddTwo := by
  unfold Obligations.SkipsAddTwo
  intro s x y kk
  exact ⟨s.skipIf_adds_two beq_iff_eq.mpr beq_eq_false_iff_ne.mpr,
    s.skipIf_adds_two bne_iff_ne.mpr bne_eq_false_iff_eq.mpr,
    s.skipIf_adds_two beq_iff_eq.mpr beq_eq_false_iff_ne.mpr,
    s.skipIf_adds_two bne_iff_ne.mpr bne_eq_false_iff_eq.mpr⟩

end Sys2Proof.Machine
end

section
/-!
PROOFS. Arithmetic and logic (`41_alu.md`): the instructions that write Vx and no flag.
-/
namespace Sys2Proof.Machine

/-- What one register write does (R7): Vx reads as written, every other register, VF among them, and the rest of the state
stay. -/
theorem State.setV_writes_only (s : State) (x : Reg) (b : Byte) : (s.setV x b).getV x = b ∧
    (∀ z, z ≠ x → (s.setV x b).getV z = s.getV z) ∧ s.setV x b = { s with v := (s.setV x b).v } :=
  ⟨State.getV_setV_self, fun _ h => State.getV_setV_of_ne h, rfl⟩

/-- Settles O23: each of the five instructions is one write of its result, computed before the write. -/
theorem loadsAndLogicWriteVx : Obligations.LoadsAndLogicWriteVx := by
  unfold Obligations.LoadsAndLogicWriteVx
  intro s x y i result hi
  have hexec : exec i s = .next (s.setV x result) := by
    obtain ⟨kk, rfl, rfl⟩ | ⟨rfl, rfl⟩ | ⟨rfl, rfl⟩ | ⟨rfl, rfl⟩ | ⟨rfl, rfl⟩ := hi <;> rfl
  exact ⟨_, hexec, s.setV_writes_only x result⟩

/-- Settles O24: one write of `addMod`, which is the sum modulo 256. -/
theorem addImmediateWraps : Obligations.AddImmediateWraps := by
  unfold Obligations.AddImmediateWraps
  intro s x kk
  obtain ⟨hx, hframe⟩ := s.setV_writes_only x (addMod (s.getV x) kk)
  exact ⟨_, rfl, (congrArg BitVec.toNat hx).trans addMod_toNat, hframe⟩

/-- RND is one write of the latched draw under the mask (R141). -/
theorem exec_rnd (s : State) (x : Reg) (kk : Byte) : exec (.rnd x kk) s = .next (s.setV x (s.rnd &&& kk)) := rfl

/-- A running STEP on RND writes the presented draw under the mask, in the state that has latched it and advanced. -/
theorem stepWith_rnd {s : State} {x : Reg} {kk r : Byte} (hs : s.status = .running)
    (hd : s.fetchDecode = .ok (.rnd x kk)) :
    stepWith r s = .next ((s.presentRnd r).advance.setV x (r &&& kk)) :=
  (stepWith_of_ok hs hd).trans (exec_rnd _ x kk)

/-- Settles O29: RND is one register write in `exec`, and in a STEP too, where the latch and the advance touch no register. -/
theorem rndMasksTheDraw : Obligations.RndMasksTheDraw := by
  unfold Obligations.RndMasksTheDraw
  constructor
  · intro s x kk
    exact ⟨_, exec_rnd s x kk, s.setV_writes_only x _⟩
  · intro s x kk r hs hd
    obtain ⟨hx, hother, hrest⟩ := (s.presentRnd r).advance.setV_writes_only x (r &&& kk)
    exact ⟨_, stepWith_rnd hs hd, hx, hother, hrest⟩

end Sys2Proof.Machine
end

section
/-!
PROOFS. Draw (`42_draw.md`): the screen clear.
-/
namespace Sys2Proof.Machine

/-- CLS is one store of the blank framebuffer (R170). -/
theorem exec_cls (s : State) : exec .cls s = .next { s with fb := clearFb } := rfl

/-- Settles O30: CLS stores the blank framebuffer, in which every pixel is false, and no other field. -/
theorem clearScreenIsTotal : Obligations.ClearScreenIsTotal := by
  unfold Obligations.ClearScreenIsTotal
  intro s
  exact ⟨_, exec_cls s, fun _ _ => pixelOf_clearFb, rfl⟩

end Sys2Proof.Machine
end

section
/-!
PROOFS. Index register, timers and memory (`44_index_timer_memory.md`): the three timer copies.
-/
namespace Sys2Proof.Machine

/-! ### What the timer instructions do (R210 to R212) -/

theorem exec_ldVxDt (s : State) (x : Reg) : exec (.ldVxDt x) s = .next (s.setV x s.dt) := rfl

theorem exec_ldDtVx (s : State) (x : Reg) : exec (.ldDtVx x) s = .next (s.setDt (s.getV x)) := rfl

theorem exec_ldStVx (s : State) (x : Reg) : exec (.ldStVx x) s = .next (s.setSt (s.getV x)) := rfl

/-- A write of DT leaves every other field, ST among them (R211). -/
theorem State.setDt_frame (s : State) (b : Byte) : s.setDt b = { s with dt := (s.setDt b).dt } := rfl

/-- A write of ST leaves every other field, DT among them (R212). -/
theorem State.setSt_frame (s : State) (b : Byte) : s.setSt b = { s with st := (s.setSt b).st } := rfl

/-- A STEP returns nothing to the host, whatever its outcome and its draw; a beep is TICK's response (R212, R249). -/
@[simp] theorem transact_step_response (s : State) (r : Byte) : (transact (.step r) s).2 = .none := rfl

/-- Settles O36: each copy is one write, of Vx, DT or ST, with that write's frame; a STEP's response holds no beep. -/
theorem timerAccess : Obligations.TimerAccess := by
  unfold Obligations.TimerAccess
  intro s x
  exact ⟨⟨_, exec_ldVxDt s x, s.setV_writes_only x s.dt⟩,
    ⟨_, exec_ldDtVx s x, State.setDt_dt s _, s.setDt_frame _⟩,
    ⟨_, exec_ldStVx s x, State.setSt_st s _, s.setSt_frame _⟩,
    transact_step_response s⟩

end Sys2Proof.Machine
end

section
/-!
PROOFS. Exceptions and ports (`60_exceptions.md`): TICK.
-/
namespace Sys2Proof.Machine

/-! ### What TICK does (R248, R249) -/

theorem transact_tick (s : State) : transact .tick s = (tick s, .beep s.beep) := rfl

/-- On a byte above 0 the decrement is exact; the byte 0 keeps its value, as the subtraction of naturals does (R248). -/
@[simp] theorem decTimer_toNat (b : Byte) : (decTimer b).toNat = b.toNat - 1 := by
  unfold decTimer
  split
  case isTrue hpos =>
    have hlt : b.toNat - 1 < 2 ^ 8 := by omega
    rw [BitVec.toNat_ofNat, Nat.mod_eq_of_lt hlt]
  case isFalse hzero => omega

@[simp] theorem tick_dt (s : State) : (tick s).dt = decTimer s.dt := rfl

@[simp] theorem tick_st (s : State) : (tick s).st = decTimer s.st := rfl

/-- TICK writes the two timers and no other field, the status among the others (R248). -/
theorem tick_frame (s : State) : tick s = { s with dt := (tick s).dt, st := (tick s).st } := rfl

theorem State.beep_iff (s : State) : s.beep = true ↔ s.st.toNat = 1 :=
  beq_iff_eq.trans BitVec.toNat_inj.symm

/-- Settles O43: TICK's two decrements, each by the rule of one timer, its beep and its frame. -/
theorem tickDecrementsBothTimers : Obligations.TickDecrementsBothTimers := by
  unfold Obligations.TickDecrementsBothTimers
  intro s
  exact ⟨tick s, s.beep, transact_tick s, by simp, by simp, s.beep_iff, tick_frame s⟩

end Sys2Proof.Machine
end

section
/-!
PROOFS. The decoder and the encoder (`30_encoding.md`): each undoes the other, and both agree with the opcode map.
-/
namespace Sys2Proof

variable {mode : ZeroOpcodeMode} {op : Word} {i : Instr} {c n : BitVec 4} {kk : Byte}

/-! ### Decoding an encoded instruction (R70, R81) -/

theorem wordOfBytes_bytesOfWord : wordOfBytes (op.extractLsb' 8 8) (op.extractLsb' 0 8) = op :=
  BitVec.extractLsb'_append_extractLsb'_eq_extractLsb' (by decide) |>.trans (by simp)

theorem decodeBytes_bytesOfWord (rest : List Byte) (h : decodeWord mode op = .ok i) :
    decodeBytes mode (bytesOfWord op ++ rest) = .ok (i, rest) := by
  simp only [bytesOfWord, List.cons_append, List.nil_append, decodeBytes, wordOfBytes_bytesOfWord, h]

theorem decodeWord_eq_ok : decodeWord mode op = .ok i ↔ decodeWord? mode op = some i := by
  unfold decodeWord
  cases decodeWord? mode op <;> simp

theorem decodeWord_eq_error : decodeWord mode op = .error (.unknownInstruction op) ↔ decodeWord? mode op = none := by
  unfold decodeWord
  cases decodeWord? mode op <;> simp

/-- NOP's word decodes to NOP in each mode that has one; DRW's row count survives its four bits; every other instruction
comes back by the fields of its format. -/
theorem decodeWord?_encode (h : i.wf mode = true) : decodeWord? mode (encode i) = some i := by
  cases i with
  | nop =>
    cases mode with
    | nop0000 | sysIgnore => rfl
    | fault => cases h
  | drw x y n =>
    have hn : n % 16 = n := Nat.mod_eq_of_lt (Nat.lt_succ_of_le (of_decide_eq_true h))
    simp [encode, decodeWord?, hn]
  | cls | ret => rfl
  | jp | call | ldI | jpV0 => simp [encode, decodeWord?]
  | seKk | sneKk | ldKk | addKk | rnd => simp [encode, decodeWord?]
  | seVy | sneVy => simp [encode, decodeWord?]
  | ldVy | orVy | andVy | xorVy | addVy | subVy | shr | subnVy | shl => simp [encode, decodeWord?, decodeAlu]
  | skp | sknp => simp [encode, decodeWord?, decodeKey]
  | _ => simp [encode, decodeWord?, decodeMisc]

/-- Settles O5: the two bytes join to the word again, and the word decodes by the fields of its format. -/
theorem decodeOfEncode : Obligations.DecodeOfEncode := by
  unfold Obligations.DecodeOfEncode
  intro mode i rest h
  exact decodeBytes_bytesOfWord rest (decodeWord_eq_ok.mpr (decodeWord?_encode h))

/-! ### Encoding a decoded word: a format filled with a word's own fields is the word (R72, R75) -/

theorem encA_opNnn (hf : opFamily op = c.toNat) : encA c (opNnn op) = op := by
  apply BitVec.eq_of_toNat_eq
  rw [opFamily_eq] at hf
  rw [encA_toNat, opNnn_eq, ← hf]
  omega

theorem encXK_opX (hf : opFamily op = c.toNat) (hk : opKk op = kk) : encXK c (opX op) kk = op := by
  apply BitVec.eq_of_toNat_eq
  rw [opFamily_eq] at hf
  rw [encXK_toNat, opX_eq, ← hk, opKk_eq, ← hf]
  omega

theorem encXYN_opX_opY (hf : opFamily op = c.toNat) (hn : opN op = n.toNat) :
    encXYN c (opX op) (opY op) n = op := by
  apply BitVec.eq_of_toNat_eq
  rw [opFamily_eq] at hf
  rw [opN_eq] at hn
  rw [encXYN_toNat, opX_eq, opY_eq, ← hf, ← hn]
  omega

/-- What each group of the decoder answers is well formed and encodes to the word. -/
def Instr.IsMeaningOf (i : Instr) (mode : ZeroOpcodeMode) (op : Word) : Prop :=
  i.wf mode = true ∧ (i ≠ .nop ∨ mode ≠ .sysIgnore → encode i = op)

theorem Instr.isMeaningOf_of_encode (hwf : i.wf mode = true) (he : encode i = op) : i.IsMeaningOf mode op :=
  ⟨hwf, fun _ => he⟩

theorem isMeaningOf_of_decodeZero (h : decodeZero mode op = some i) : i.IsMeaningOf mode op := by
  unfold decodeZero at h
  split at h
  case isTrue hcls => cases h; exact Instr.isMeaningOf_of_encode rfl hcls.symm
  case isFalse =>
    split at h
    case isTrue hret => cases h; exact Instr.isMeaningOf_of_encode rfl hret.symm
    case isFalse =>
      cases mode with
      | nop0000 =>
        simp only [Option.ite_none_right_eq_some, Option.some.injEq] at h
        obtain ⟨hop, rfl⟩ := h
        exact Instr.isMeaningOf_of_encode rfl hop.symm
      | sysIgnore => cases h; exact ⟨rfl, fun hne => by simp at hne⟩
      | fault => cases h

theorem isMeaningOf_of_decodeAlu (hf : opFamily op = 8) (h : decodeAlu op = some i) : i.IsMeaningOf mode op := by
  unfold decodeAlu at h
  split at h <;> cases h <;> exact Instr.isMeaningOf_of_encode rfl (encXYN_opX_opY hf ‹_›)

theorem isMeaningOf_of_decodeKey (hf : opFamily op = 14) (h : decodeKey op = some i) : i.IsMeaningOf mode op := by
  unfold decodeKey at h
  split_ifs at h <;> cases h <;> exact Instr.isMeaningOf_of_encode rfl (encXK_opX hf ‹_›)

theorem isMeaningOf_of_decodeMisc (hf : opFamily op = 15) (h : decodeMisc op = some i) : i.IsMeaningOf mode op := by
  unfold decodeMisc at h
  split_ifs at h <;> cases h <;> exact Instr.isMeaningOf_of_encode rfl (encXK_opX hf ‹_›)

theorem opFamily_lt : opFamily op < 16 := by
  have := op.isLt
  rw [opFamily_eq]
  omega

/-- The decoder's families, one by one: each answers the word's own fields, in the format of its row (R75, R76). -/
theorem isMeaningOf_of_decodeWord? (h : decodeWord? mode op = some i) : i.IsMeaningOf mode op := by
  unfold decodeWord? at h
  split at h
  case h_1 => exact isMeaningOf_of_decodeZero h
  case h_2 hf | h_3 hf | h_11 hf | h_12 hf =>
    cases h; exact Instr.isMeaningOf_of_encode rfl (encA_opNnn hf)
  case h_4 hf | h_5 hf | h_7 hf | h_8 hf | h_13 hf =>
    cases h; exact Instr.isMeaningOf_of_encode rfl (encXK_opX hf rfl)
  case h_6 hf | h_10 hf =>
    simp only [Option.ite_none_right_eq_some, Option.some.injEq] at h
    obtain ⟨hn, rfl⟩ := h
    exact Instr.isMeaningOf_of_encode rfl (encXYN_opX_opY hf hn)
  case h_9 hf => exact isMeaningOf_of_decodeAlu hf h
  case h_14 hf =>
    cases h
    have hn : opN op < 16 := by rw [opN_eq]; omega
    exact Instr.isMeaningOf_of_encode (decide_eq_true (Nat.le_of_lt_succ hn))
      (encXYN_opX_opY hf (by rw [BitVec.toNat_ofNat]; exact (Nat.mod_eq_of_lt hn).symm))
  case h_15 hf => exact isMeaningOf_of_decodeKey hf h
  case h_16 =>
    have hlt := opFamily_lt (op := op)
    have hf : opFamily op = 15 := by simp only [imp_false] at *; omega
    exact isMeaningOf_of_decodeMisc hf h

/-- Settles O6, family by family of the decoder. -/
theorem encodeOfDecode : Obligations.EncodeOfDecode := by
  unfold Obligations.EncodeOfDecode
  intro mode op i h
  exact isMeaningOf_of_decodeWord? (decodeWord_eq_ok.mp h)

/-! ### The illegal words (R78), group by group -/

/-- A chain of tests answers none when each test fails and its last answer is none. -/
theorem ite_some_eq_none {p : Prop} [Decidable p] {rest : Option Instr} :
    (if p then some i else rest) = none ↔ ¬p ∧ rest = none := by
  by_cases hp : p <;> simp [hp]

theorem decodeZero_eq_none : decodeZero mode op = none ↔
    op ≠ 0x00E0 ∧ op ≠ 0x00EE ∧ ((mode = .nop0000 ∧ op ≠ 0x0000) ∨ mode = .fault) := by
  unfold decodeZero
  rw [ite_some_eq_none, ite_some_eq_none]
  cases mode with
  | nop0000 => rw [ite_some_eq_none]; simp
  | sysIgnore | fault => simp

theorem decodeAlu_eq_none : decodeAlu op = none ↔ opN op ∈ [0x8, 0x9, 0xA, 0xB, 0xC, 0xD, 0xF] := by
  have hlt : opN op < 16 := by rw [opN_eq]; omega
  unfold decodeAlu
  split
  case h_10 =>
    simp only [imp_false, true_iff, List.mem_cons, List.not_mem_nil, or_false] at *
    omega
  all_goals simp [*]

theorem opKk_eq_iff : opKk op = kk ↔ (opKk op).toNat = kk.toNat := BitVec.toNat_inj.symm

theorem decodeKey_eq_none : decodeKey op = none ↔ (opKk op).toNat ∉ [0x9E, 0xA1] := by
  
  simp [decodeKey, opKk_eq_iff, ite_some_eq_none]

theorem decodeMisc_eq_none : decodeMisc op = none ↔
    (opKk op).toNat ∉ [0x07, 0x0A, 0x15, 0x18, 0x1E, 0x29, 0x33, 0x55, 0x65] := by
  simp [decodeMisc, opKk_eq_iff, ite_some_eq_none]

/-- The illegal words by their fields: families 0, 5, 8, 9, E and F have some, the other ten have none. -/
theorem decodeWord?_eq_none : decodeWord? mode op = none ↔
    (opFamily op = 0x0 ∧ op ≠ 0x00E0 ∧ op ≠ 0x00EE ∧ ((mode = .nop0000 ∧ op ≠ 0x0000) ∨ mode = .fault)) ∨
    (opFamily op = 0x5 ∧ opN op ≠ 0) ∨
    (opFamily op = 0x8 ∧ opN op ∈ [0x8, 0x9, 0xA, 0xB, 0xC, 0xD, 0xF]) ∨
    (opFamily op = 0x9 ∧ opN op ≠ 0) ∨
    (opFamily op = 0xE ∧ (opKk op).toNat ∉ [0x9E, 0xA1]) ∨
    (opFamily op = 0xF ∧ (opKk op).toNat ∉ [0x07, 0x0A, 0x15, 0x18, 0x1E, 0x29, 0x33, 0x55, 0x65]) := by
  rw [← decodeZero_eq_none, ← decodeAlu_eq_none, ← decodeKey_eq_none, ← decodeMisc_eq_none]
  unfold decodeWord?
  split
  case h_16 =>
    have hlt := opFamily_lt (op := op)
    have hf : opFamily op = 15 := by simp only [imp_false] at *; omega
    simp [hf]
  all_goals simp [*]

/-- Settles O8: the fields of a word, written as its quotients and remainders. -/
theorem illegalWords : Obligations.IllegalWords := by
  unfold Obligations.IllegalWords
  intro mode op
  rw [← opFamily_eq, ← opN_eq, ← opKk_eq]
  exact decodeWord_eq_error.trans decodeWord?_eq_none

/-- Whether a word is legal depends on its family and, in the families that have illegal words, on the bits that select
the operation there. -/
theorem decodeWord?_eq_none_congr {op' : Word} (hf : opFamily op = opFamily op') (h0 : opFamily op' = 0 → op = op')
    (hn : opFamily op' ∈ [5, 8, 9] → opN op = opN op') (hk : opFamily op' ∈ [14, 15] → opKk op = opKk op') :
    decodeWord? mode op = none ↔ decodeWord? mode op' = none := by
  rw [decodeWord?_eq_none, decodeWord?_eq_none, hf]
  refine or_congr ?_ (or_congr ?_ (or_congr ?_ (or_congr ?_ (or_congr ?_ ?_)))) <;> refine and_congr_right fun h => ?_
  · rw [h0 h]
  · rw [hn (by simp [h])]
  · rw [hn (by simp [h])]
  · rw [hn (by simp [h])]
  · rw [hk (by simp [h])]
  · rw [hk (by simp [h])]

/-! ### The opcode map (R76, R77) -/

/-- No two rows ask for different values of the bits that both fix. -/
theorem opcodeRows_disjoint : ∀ r ∈ opcodeRows, ∀ r' ∈ opcodeRows,
    r.pattern &&& r'.mask = r'.pattern &&& r.mask → r = r' := by decide

theorem OpRow.matchesWord_iff {r : OpRow} : r.matchesWord op = true ↔ op &&& r.mask = r.pattern := beq_iff_eq

theorem opcodeRow_unique {r r' : OpRow} (hr : r ∈ opcodeRows) (hr' : r' ∈ opcodeRows) (h : r.matchesWord op = true)
    (h' : r'.matchesWord op = true) : r = r' := by
  rw [OpRow.matchesWord_iff] at h h'
  refine opcodeRows_disjoint r hr r' hr' ?_
  rw [← h, ← h', BitVec.and_assoc, BitVec.and_assoc, BitVec.and_comm r.mask]

theorem encodesInRow (i : Instr) : Laws.EncodesInRow.Statement i := by
  open Laws.EncodesInRow in
  cases i
  exacts [nop, cls, ret, jp _, call _, seKk _ _, sneKk _ _, seVy _ _, ldKk _ _, addKk _ _, ldVy _ _, orVy _ _, andVy _ _,
    xorVy _ _, addVy _ _, subVy _ _, shr _ _, subnVy _ _, shl _ _, sneVy _ _, ldI _, jpV0 _, rnd _ _, drw _ _ _, skp _,
    sknp _, ldVxDt _, ldVxK _, ldDtVx _, ldStVx _, addI _, ldF _, ldB _, storeBlock _, loadBlock _]

theorem exists_row_of_decodeWord (h : decodeWord .nop0000 op = .ok i) :
    ∃ r ∈ opcodeRows, r.matchesWord op = true ∧ r.num = i.rowNum := by
  obtain ⟨-, henc⟩ := isMeaningOf_of_decodeWord? (decodeWord_eq_ok.mp h)
  obtain ⟨r, hr, hnum, hmatch⟩ := encodesInRow i
  rw [henc (.inr (by decide))] at hmatch
  exact ⟨r, hr, hmatch, hnum⟩

/-- A row fixes the family; its mask covers the rest of the selecting bits of its family; and its pattern is legal. -/
theorem opcodeRows_select : ∀ r ∈ opcodeRows, r.mask.extractLsb' 12 4 = BitVec.allOnes 4 ∧
    (opFamily r.pattern = 0 → r.mask = BitVec.allOnes 16) ∧
    (opFamily r.pattern ∈ [5, 8, 9] → r.mask.extractLsb' 0 4 = BitVec.allOnes 4) ∧
    (opFamily r.pattern ∈ [14, 15] → r.mask.extractLsb' 0 8 = BitVec.allOnes 8) ∧
    (decodeWord? .nop0000 r.pattern).isSome = true := by decide

/-- A field that the mask covers is the same in the masked word. -/
theorem extractLsb'_and_of_allOnes {m : Word} {start len : Nat} (hm : m.extractLsb' start len = BitVec.allOnes len) :
    (op &&& m).extractLsb' start len = op.extractLsb' start len := by
  rw [BitVec.extractLsb'_and, hm, BitVec.and_allOnes]

/-- A word that a row matches is as legal as the row's pattern. -/
theorem exists_decodeWord_of_row {r : OpRow} (hr : r ∈ opcodeRows) (h : r.matchesWord op = true) :
    ∃ i, decodeWord .nop0000 op = .ok i := by
  obtain ⟨hmf, hm0, hmn, hmk, hsome⟩ := opcodeRows_select r hr
  rw [OpRow.matchesWord_iff] at h
  have hlegal : decodeWord? .nop0000 op = none ↔ decodeWord? .nop0000 r.pattern = none := by
    apply decodeWord?_eq_none_congr
    · rw [← h, opFamily, opFamily, extractLsb'_and_of_allOnes hmf]
    · intro hf; rw [← h, hm0 hf, BitVec.and_allOnes]
    · intro hf; rw [← h, opN, opN, extractLsb'_and_of_allOnes (hmn hf)]
    · intro hf; rw [← h, opKk, opKk, extractLsb'_and_of_allOnes (hmk hf)]
  obtain ⟨i, hi⟩ := Option.ne_none_iff_exists'.mp fun hnone => by simp [hlegal.mp hnone] at hsome
  exact ⟨i, decodeWord_eq_ok.mpr hi⟩

/-- Settles O7: two rows never match one word; a word that a row matches is legal, and then the row of its instruction
matches it too, so it is that row. -/
theorem dispatchIsTheOpcodeMap : Obligations.DispatchIsTheOpcodeMap := by
  unfold Obligations.DispatchIsTheOpcodeMap
  refine ⟨fun op r r' hr hr' h h' => opcodeRow_unique hr hr' h h', fun op r hr h => ?_,
    fun op i h => exists_row_of_decodeWord h⟩
  obtain ⟨i, hi⟩ := exists_decodeWord_of_row hr h
  obtain ⟨r', hr', hmatch, hnum⟩ := exists_row_of_decodeWord hi
  exact ⟨i, hi, hnum.symm.trans (congrArg OpRow.num (opcodeRow_unique hr' hr hmatch h))⟩

end Sys2Proof
end

section
/-!
PROOFS. What an instruction can do, said once: a rule for each instruction that can fault, on both sides of its check, and
the list of all effects.
-/
namespace Sys2Proof.Machine

variable {s t : State} {i : Instr} {f : Fault} {x y : Reg} {n : Nat} {nnn : Addr12}

/-! ### The stack (R102, R103) -/

theorem exec_call_of_lt (h : s.sp.val < 16) : exec (.call nnn) s = .next { s with
    pc := addrOperand nnn, sp := ⟨s.sp.val + 1, by omega⟩, stack := s.stack.set s.sp.val s.pc } := by
  simp only [exec, execCall, State.push_of_lt h]
  rfl

theorem exec_call_of_full (h : s.sp.val = 16) : exec (.call nnn) s = .next (s.raise (.stackOverflow s.instrAddr)) := by
  simp only [exec, execCall, State.push_of_full h]

theorem exec_ret_of_pos (h : 0 < s.sp.val) : exec .ret s = .next { s with
    pc := s.stack[s.sp.val - 1], sp := ⟨s.sp.val - 1, by omega⟩ } := by
  simp only [exec, execRet, State.pop_of_pos h]
  rfl

theorem exec_ret_of_empty (h : s.sp.val = 0) : exec .ret s = .next (s.raise (.stackUnderflow s.instrAddr)) := by
  simp only [exec, execRet, State.pop_of_empty h]

/-! ### Block reads (R171, R218) -/

/-- The `n` bytes from `I` on. -/
def State.bytesFromI (s : State) (n : Nat) : List Byte := (List.range n).map fun k => s.readByte (s.i.toNat + k)

@[simp] theorem State.length_bytesFromI : (s.bytesFromI n).length = n := by simp [State.bytesFromI]

@[simp] theorem State.getElem_bytesFromI {k : Nat} (h : k < (s.bytesFromI n).length) :
    (s.bytesFromI n)[k] = s.readByte (s.i.toNat + k) := by simp [State.bytesFromI]

theorem State.readBlock_base_of_le (h : n = 0 ∨ s.i.toNat + n ≤ 0x1000) : s.readBlock s.base n = .ok (s.bytesFromI n) :=
  State.readBlock_eq.trans (if_pos h)

theorem State.readBlock_base_of_gt (h0 : n ≠ 0) (h : 0x1000 < s.i.toNat + n) :
    s.readBlock s.base n = .error (.memOutOfRange (max s.i.toNat 0x1000)) :=
  State.readBlock_eq.trans (if_neg (by unfold State.base; omega))

theorem exec_drw_of_le (h : n = 0 ∨ s.i.toNat + n ≤ 0x1000) :
    exec (.drw x y n) s = .next (s.drawSprite x y (s.bytesFromI n)) := by
  simp only [exec, execDrw, State.readBlock_base_of_le h]

theorem exec_drw_of_gt (h0 : n ≠ 0) (h : 0x1000 < s.i.toNat + n) :
    exec (.drw x y n) s = .next (s.raise (.memOutOfRange (max s.i.toNat 0x1000))) := by
  simp only [exec, execDrw, State.readBlock_base_of_gt h0 h]

theorem exec_loadBlock_of_le (h : s.i.toNat + x.val ≤ 0xFFF) :
    exec (.loadBlock x) s = .next (s.setVsFrom 0 (s.bytesFromI (x.val + 1))) := by
  simp only [exec, execLoadBlock, blockLen, State.readBlock_base_of_le (s := s) (n := x.val + 1) (by omega)]

theorem exec_loadBlock_of_gt (h : 0xFFF < s.i.toNat + x.val) :
    exec (.loadBlock x) s = .next (s.raise (.memOutOfRange (max s.i.toNat 0x1000))) := by
  simp only [exec, execLoadBlock, blockLen,
    State.readBlock_base_of_gt (s := s) (n := x.val + 1) (by omega) (by omega)]

/-! ### Stores from `I` (R216, R217, R243) -/

/-- The fault of a store to `I` .. `I + last`: out of range before the font. -/
def State.storeFault? (s : State) (last : Nat) : Option Fault :=
  if 0xFFF < s.i.toNat + last then some (.memOutOfRange (max s.i.toNat 0x1000))
  else if s.i.toNat ≤ 0x04F ∧ s.cfg.fontWritePolicy = .fault then some (.fontWrite s.i.toNat)
  else none

theorem State.storeFault?_of_gt {last : Nat} (h : 0xFFF < s.i.toNat + last) :
    s.storeFault? last = some (.memOutOfRange (max s.i.toNat 0x1000)) := if_pos h

theorem State.storeFault?_of_font {last : Nat} (hl : last ≤ 15) (hi : s.i.toNat ≤ 0x04F)
    (hp : s.cfg.fontWritePolicy = .fault) : s.storeFault? last = some (.fontWrite s.i.toNat) :=
  (if_neg (by omega)).trans (if_pos ⟨hi, hp⟩)

theorem State.storeFault?_eq_none {last : Nat} : s.storeFault? last = none ↔
    s.i.toNat + last ≤ 0xFFF ∧ (s.cfg.fontWritePolicy = .fault → 0x04F < s.i.toNat) := by
  unfold State.storeFault?
  by_cases hr : 0xFFF < s.i.toNat + last
  · simp [hr]
  · by_cases hf : s.i.toNat ≤ 0x04F ∧ s.cfg.fontWritePolicy = .fault
    · simp [hr, hf]
    · simp only [if_neg hr, if_neg hf, true_iff]
      exact ⟨by omega, fun hp => Nat.lt_of_not_le fun hi => hf ⟨hi, hp⟩⟩

/-- A store from `I` raises its fault, or writes all its bytes. -/
theorem State.storeFromI_of_fault {bs : List Byte} {last : Nat} (hbs : bs.length = last + 1) (hl : last ≤ 15)
    (h : s.storeFault? last = some f) : s.storeFromI bs = .next (s.raise f) := by
  rw [State.storeFromI_eq (by omega) (by omega)]
  unfold State.storeFault? at h
  split at h
  case isTrue hr => cases h; rw [if_pos (by omega)]
  case isFalse hr =>
    split at h
    case isTrue hf => cases h; rw [if_neg (by omega), if_pos hf]
    case isFalse => cases h

theorem State.storeFromI_of_none {bs : List Byte} {last : Nat} (hbs : bs.length = last + 1) (hl : last ≤ 15)
    (h : s.storeFault? last = none) : s.storeFromI bs = .next (s.storeBytes s.i.toNat bs) := by
  obtain ⟨hr, hf⟩ := State.storeFault?_eq_none.mp h
  rw [State.storeFromI_eq (by omega) (by omega), if_neg (by omega), if_neg fun hfont => by have := hf hfont.2; omega]

theorem exec_ldB (s : State) (x : Reg) : exec (.ldB x) s = s.storeFromI (decimalDigits (s.getV x)) := rfl

theorem exec_storeBlock (s : State) (x : Reg) : exec (.storeBlock x) s = s.storeFromI (s.firstVs x) := rfl

/-! ### Key tests (R190, R191) -/

theorem exec_skp_of_key {k : Key} (h : k.val = (s.getV x).toNat) : exec (.skp x) s = .next (s.skipIf (s.key k)) := by
  have hk : keyIndex (s.getV x) = some k :=
    (keyIndex_of_lt (h ▸ k.isLt)).trans (congrArg some (Fin.ext h.symm))
  simp only [exec, execSkp, hk]

theorem exec_sknp_of_key {k : Key} (h : k.val = (s.getV x).toNat) : exec (.sknp x) s = .next (s.skipIf (!s.key k)) := by
  have hk : keyIndex (s.getV x) = some k :=
    (keyIndex_of_lt (h ▸ k.isLt)).trans (congrArg some (Fin.ext h.symm))
  simp only [exec, execSknp, hk]

theorem exec_keySkip_of_gt (hi : i = .skp x ∨ i = .sknp x) (h : 15 < (s.getV x).toNat) :
    exec i s = .next (s.raise (.keyIndexOutOfRange (s.getV x))) := by
  have hk : keyIndex (s.getV x) = none := keyIndex_of_ge (by omega)
  obtain rfl | rfl := hi
  · simp only [exec, execSkp, hk]
  · simp only [exec, execSknp, hk]

/-! ### The key wait (R192) -/

theorem exec_ldVxK_of_none (h : s.firstPressed = none) : exec (.ldVxK x) s = .next (s.setPc (s.pc - 2)) := by
  simp only [exec, execLdVxK, h]

theorem exec_ldVxK_of_some {k : Key} (h : s.firstPressed = some k) :
    exec (.ldVxK x) s = .next (s.setV x (BitVec.ofNat 8 k.val)) := by
  simp only [exec, execLdVxK, h]

/-! ### The fault of an instruction, if it has one (R240, R243) -/

/-- The fault that executing an instruction raises. At entry `pc = a + 2`, so `instrAddr` is `a`. -/
def State.fault? (s : State) : Instr → Option Fault
  | .call _ => if s.sp.val = 16 then some (.stackOverflow s.instrAddr) else none
  | .ret => if s.sp.val = 0 then some (.stackUnderflow s.instrAddr) else none
  | .drw _ _ n => if 0 < n ∧ 0x1000 < s.i.toNat + n then some (.memOutOfRange (max s.i.toNat 0x1000)) else none
  | .loadBlock x => if 0xFFF < s.i.toNat + x.val then some (.memOutOfRange (max s.i.toNat 0x1000)) else none
  | .ldB _ => s.storeFault? 2
  | .storeBlock x => s.storeFault? x.val
  | .skp x => if 15 < (s.getV x).toNat then some (.keyIndexOutOfRange (s.getV x)) else none
  | .sknp x => if 15 < (s.getV x).toNat then some (.keyIndexOutOfRange (s.getV x)) else none
  | _ => none

theorem exec_of_fault (h : s.fault? i = some f) : exec i s = .next (s.raise f) := by
  unfold State.fault? at h
  split at h
  case h_1 =>
    obtain ⟨hsp, ⟨⟩⟩ := Option.ite_none_right_eq_some.mp h
    exact exec_call_of_full hsp
  case h_2 =>
    obtain ⟨hsp, ⟨⟩⟩ := Option.ite_none_right_eq_some.mp h
    exact exec_ret_of_empty hsp
  case h_3 =>
    obtain ⟨⟨hn, hr⟩, ⟨⟩⟩ := Option.ite_none_right_eq_some.mp h
    exact exec_drw_of_gt (by omega) hr
  case h_4 =>
    obtain ⟨hr, ⟨⟩⟩ := Option.ite_none_right_eq_some.mp h
    exact exec_loadBlock_of_gt hr
  case h_5 => exact State.storeFromI_of_fault (last := 2) rfl (by omega) h
  case h_6 => exact State.storeFromI_of_fault State.length_firstVs (by omega) h
  case h_7 =>
    obtain ⟨hk, ⟨⟩⟩ := Option.ite_none_right_eq_some.mp h
    exact exec_keySkip_of_gt (.inl rfl) hk
  case h_8 =>
    obtain ⟨hk, ⟨⟩⟩ := Option.ite_none_right_eq_some.mp h
    exact exec_keySkip_of_gt (.inr rfl) hk
  case h_9 => cases h

/-! What the absence of a fault says of the operands, for the rule of each instruction. -/

theorem State.sp_lt_of_no_fault (h : s.fault? (.call nnn) = none) : s.sp.val < 16 := by
  have hne : s.sp.val ≠ 16 := fun hsp => by simp [State.fault?, hsp] at h
  omega

theorem State.sp_pos_of_no_fault (h : s.fault? .ret = none) : 0 < s.sp.val :=
  Nat.pos_of_ne_zero fun hsp => by simp [State.fault?, hsp] at h

theorem State.rows_le_of_no_fault (h : s.fault? (.drw x y n) = none) : n = 0 ∨ s.i.toNat + n ≤ 0x1000 := by
  by_contra hout
  have hcheck : 0 < n ∧ 0x1000 < s.i.toNat + n := by omega
  simp [State.fault?, hcheck] at h

theorem State.block_le_of_no_fault (h : s.fault? (.loadBlock x) = none) : s.i.toNat + x.val ≤ 0xFFF :=
  Nat.le_of_not_lt fun hout => by simp [State.fault?, hout] at h

theorem State.key_lt_of_no_fault (hi : i = .skp x ∨ i = .sknp x) (h : s.fault? i = none) : (s.getV x).toNat < 16 := by
  by_contra hge
  have hout : 15 < (s.getV x).toNat := by omega
  obtain rfl | rfl := hi <;> simp [State.fault?, hout] at h

/-- A fault record that names an address names the instruction's (R240). -/
theorem State.addr?_of_fault? {a : Word} (h : s.fault? i = some f) (ha : f.addr? = some a) : a = s.instrAddr := by
  unfold State.fault? State.storeFault? at h
  split at h
  case h_9 => cases h
  all_goals split_ifs at h <;> cases h <;> cases ha <;> rfl

/-! ### The effects -/

/-- The instructions that may change VF: the six with a flag, and those that name VF as their destination (R21). -/
def WritesVf (i : Instr) : Prop :=
  (∃ x y, i = .addVy x y ∨ i = .subVy x y ∨ i = .subnVy x y ∨ i = .shr x y ∨ i = .shl x y ∨ ∃ n, i = .drw x y n) ∨
  (∃ kk, i = .ldKk 15 kk ∨ i = .addKk 15 kk ∨ i = .rnd 15 kk) ∨
  (∃ y, i = .ldVy 15 y ∨ i = .orVy 15 y ∨ i = .andVy 15 y ∨ i = .xorVy 15 y) ∨
  i = .ldVxDt 15 ∨ i = .ldVxK 15 ∨ i = .loadBlock 15

/-- What an instruction may do to the state it is executed in, which fields it writes, and which instructions write them. -/
inductive Effect (i : Instr) (s : State) : State → Prop
  | fault (f : Fault) (h : s.fault? i = some f) : Effect i s (s.raise f)
  | registers (v : Vector Byte 16) (h : v[15] ≠ s.v[15] → WritesVf i) : Effect i s { s with v := v }
  | control (pc : Word) (h : pc = s.pc ∨ pc = s.pc + 2 ∨ pc = s.pc - 2 ∨ pc.toNat ≤ 0x10FE) :
      Effect i s { s with pc := pc }
  | call (nnn : Addr12) (hi : i = .call nnn) (h : s.sp.val < 16) : Effect i s { s with
      pc := addrOperand nnn, sp := ⟨s.sp.val + 1, by omega⟩, stack := s.stack.set s.sp.val s.pc }
  | ret (hi : i = .ret) (h : 0 < s.sp.val) : Effect i s { s with
      pc := s.stack[s.sp.val - 1], sp := ⟨s.sp.val - 1, by omega⟩ }
  | screen (v : Vector Byte 16) (fb : Vector PixelRow 32) (hi : i = .cls ∨ ∃ x y n, i = .drw x y n)
      (h : v[15] ≠ s.v[15] → WritesVf i) : Effect i s { s with v := v, fb := fb }
  | index (w : Word) (hi : (∃ nnn, i = .ldI nnn) ∨ (∃ x, i = .addI x) ∨ (∃ x, i = .ldF x)) :
      Effect i s { s with i := w }
  | delay (b : Byte) (hi : ∃ x, i = .ldDtVx x) : Effect i s { s with dt := b }
  | sound (b : Byte) (hi : ∃ x, i = .ldStVx x) : Effect i s { s with st := b }
  | store (bs : List Byte)
      (hi : (∃ x, i = .ldB x ∧ bs.length = 2 + 1) ∨ ∃ x, i = .storeBlock x ∧ bs.length = x.val + 1)
      (hr : s.i.toNat + bs.length ≤ 0x1000) (hf : s.cfg.fontWritePolicy = .fault → 0x04F < s.i.toNat) :
      Effect i s (s.storeBytes s.i.toNat bs)

theorem Effect.of_v (h : t = { s with v := t.v }) (hv : t.getV 15 ≠ s.getV 15 → WritesVf i) : Effect i s t :=
  h ▸ .registers t.v hv

/-- One register write changes VF only when it names VF. -/
theorem Effect.of_setV {b : Byte} (h : x = 15 → WritesVf i) : Effect i s (s.setV x b) :=
  .of_v rfl fun hne => h (not_imp_comm.mp (fun hx => State.getV_setV_of_ne (Ne.symm hx)) hne)

theorem State.writeResultFlag_frame (s : State) (x : Reg) (b : Byte) (flag : Bool) :
    s.writeResultFlag x b flag = { s with v := (s.writeResultFlag x b flag).v } := by
  unfold State.writeResultFlag
  split <;> rfl

theorem State.setVsFrom_frame (s : State) (k : Nat) (bs : List Byte) :
    s.setVsFrom k bs = { s with v := (s.setVsFrom k bs).v } := by
  induction bs generalizing s k with
  | nil => rfl
  | cons b bs ih =>
    unfold State.setVsFrom
    split
    · rw [ih]; rfl
    · rfl

theorem Effect.of_skipIf {c : Bool} : Effect i s (s.skipIf c) := by
  rw [s.skipIf_frame]
  refine .control _ ?_
  cases c
  · exact .inl rfl
  · exact .inr (.inl rfl)

theorem State.getV_loadBlock {r : Reg} : (s.setVsFrom 0 (s.bytesFromI (x.val + 1))).getV r =
    if r ≤ x then s.readByte (s.i.toNat + r.val) else s.getV r := by
  have hlen : (s.bytesFromI (x.val + 1)).length = x.val + 1 := State.length_bytesFromI
  rw [State.getV_setVsFrom (by omega)]
  by_cases hr : r.val ≤ x.val
  · rw [dif_pos (by omega), State.getElem_bytesFromI, if_pos (Fin.le_def.mpr hr), Nat.sub_zero]
  · rw [dif_neg (by omega), if_neg fun hle => hr (Fin.le_def.mp hle)]

/-- An instruction that raises no fault has one of the effects. -/
theorem effect_of_no_fault (h : s.fault? i = none) : ∃ t, exec i s = .next t ∧ Effect i s t := by
  cases i with
  | nop => exact ⟨s, rfl, .control s.pc (.inl rfl)⟩
  | cls => exact ⟨_, rfl, .screen s.v clearFb (.inl rfl) fun hne => absurd rfl hne⟩
  | ret =>
    have hsp := State.sp_pos_of_no_fault h
    exact ⟨_, exec_ret_of_pos hsp, .ret rfl hsp⟩
  | call nnn =>
    have hsp := State.sp_lt_of_no_fault h
    exact ⟨_, exec_call_of_lt hsp, .call nnn rfl hsp⟩
  | jp nnn =>
    have := nnn.isLt
    exact ⟨_, rfl, .control _ (.inr (.inr (.inr (by rw [addrOperand_toNat]; omega))))⟩
  | jpV0 nnn =>
    have := nnn.isLt
    have := (s.getV 0).isLt
    exact ⟨_, rfl, .control _ (.inr (.inr (.inr (by rw [State.offsetTarget_toNat]; omega))))⟩
  | seKk | sneKk | seVy | sneVy => exact ⟨_, rfl, .of_skipIf⟩
  | skp x =>
    have hk := State.key_lt_of_no_fault (.inl rfl) h
    exact ⟨_, exec_skp_of_key (k := ⟨_, hk⟩) rfl, .of_skipIf⟩
  | sknp x =>
    have hk := State.key_lt_of_no_fault (.inr rfl) h
    exact ⟨_, exec_sknp_of_key (k := ⟨_, hk⟩) rfl, .of_skipIf⟩
  | ldKk | addKk | ldVy | orVy | andVy | xorVy | rnd | ldVxDt =>
    exact ⟨_, rfl, .of_setV fun hx => by simp [WritesVf, hx]⟩
  | addVy | subVy | shr | subnVy | shl =>
    exact ⟨_, rfl, .of_v (s.writeResultFlag_frame _ _ _) fun _ => by simp [WritesVf]⟩
  | ldVxK x =>
    cases hk : s.firstPressed with
    | none => exact ⟨_, exec_ldVxK_of_none hk, .control _ (.inr (.inr (.inl rfl)))⟩
    | some k => exact ⟨_, exec_ldVxK_of_some hk, .of_setV fun hx => by simp [WritesVf, hx]⟩
  | drw x y n =>
    exact ⟨_, exec_drw_of_le (State.rows_le_of_no_fault h),
      .screen _ _ (.inr ⟨x, y, n, rfl⟩) fun _ => by simp [WritesVf]⟩
  | ldI => exact ⟨_, rfl, .index _ (by simp)⟩
  | addI => exact ⟨_, rfl, .index _ (by simp)⟩
  | ldF => exact ⟨_, rfl, .index _ (by simp)⟩
  | ldDtVx x => exact ⟨_, rfl, .delay _ ⟨x, rfl⟩⟩
  | ldStVx x => exact ⟨_, rfl, .sound _ ⟨x, rfl⟩⟩
  | ldB x =>
    obtain ⟨hr, hf⟩ := State.storeFault?_eq_none.mp h
    exact ⟨_, State.storeFromI_of_none (last := 2) rfl (by omega) h,
      .store _ (.inl ⟨x, rfl, rfl⟩) (Nat.succ_le_succ hr) hf⟩
  | storeBlock x =>
    obtain ⟨hr, hf⟩ := State.storeFault?_eq_none.mp h
    exact ⟨_, State.storeFromI_of_none State.length_firstVs (by omega) h,
      .store _ (.inr ⟨x, rfl, State.length_firstVs⟩) (by rw [State.length_firstVs]; omega) hf⟩
  | loadBlock x =>
    refine ⟨_, exec_loadBlock_of_le (State.block_le_of_no_fault h), .of_v (s.setVsFrom_frame _ _) fun hne => ?_⟩
    rw [State.getV_loadBlock] at hne
    have hle : 15 ≤ x.val := Nat.le_of_not_lt fun hlt => hne (if_neg (Nat.not_le_of_lt hlt))
    have hx : x = 15 := Fin.ext (by change x.val = 15; omega)
    simp [WritesVf, hx]

/-- Every instruction answers a next state, by one of the effects. -/
theorem exec_effect (i : Instr) (s : State) : ∃ t, exec i s = .next t ∧ Effect i s t := by
  cases h : s.fault? i with
  | some f => exact ⟨_, exec_of_fault h, .fault f h⟩
  | none => exact effect_of_no_fault h

theorem effect_of_exec (h : exec i s = .next t) : Effect i s t := by
  obtain ⟨u, hu, he⟩ := exec_effect i s
  cases hu.symm.trans h
  exact he

end Sys2Proof.Machine
end

section
/-!
PROOFS. What a step can do, said once: it idles, records a fault of its fetch or decode, or has an effect of the fetched
instruction. The invariant and the font follow from that, for a step and for every run of transactions.
-/
namespace Sys2Proof.Machine

variable {s t u : State} {i : Instr} {f : Fault} {r : Byte}

/-- What a step may do. The draw fields `rnd` and `draws` are the model's own (log 3). -/
inductive StepEffect (s : State) : State → Prop
  | idle (f : Fault) (hs : s.status = .faulted f) : StepEffect s s
  | noFetch (f : Fault) (r : Byte) (n : Nat) (hs : s.status = .running) (hd : s.fetchDecode = .error f) :
      StepEffect s { s with rnd := r, draws := n, status := .faulted f }
  | runs (i : Instr) (t : State) (r : Byte) (n : Nat) (hs : s.status = .running) (hd : s.fetchDecode = .ok i)
      (he : Effect i { s with pc := s.pc + 2, rnd := r, draws := n } t) : StepEffect s t

theorem stepEffect_of_stepWith (h : stepWith r s = .next t) : StepEffect s t := by
  rcases stepWith_cases r s with ⟨f, hs, hn⟩ | ⟨hs, f, hd, hn⟩ | ⟨hs, i, hd, hn⟩
  · cases hn.symm.trans h
    exact .idle f hs
  · cases hn.symm.trans h
    exact .noFetch f r s.draws hs hd
  · exact .runs i t r s.draws hs hd (effect_of_exec (hn.symm.trans h))

theorem stepEffect_of_step (h : step s = .next t) : StepEffect s t := by
  cases hs : s.status with
  | faulted f =>
    cases (step_of_faulted hs).symm.trans h
    exact .idle f hs
  | running =>
    rw [step_of_running hs] at h
    rcases stepWith_cases (Config.freeRnd s.draws) { s with draws := s.draws + 1 } with
      ⟨f, hs', -⟩ | ⟨-, f, hd, hn⟩ | ⟨-, i, hd, hn⟩
    · cases hs.symm.trans hs'
    · cases hn.symm.trans h
      exact .noFetch f _ _ hs hd
    · exact .runs i t _ _ hs hd (effect_of_exec (hn.symm.trans h))

theorem stepEffect_of_steps (h : step s = .next t ∨ ∃ r, stepWith r s = .next t) : StepEffect s t := by
  obtain h | ⟨r, h⟩ := h
  · exact stepEffect_of_step h
  · exact stepEffect_of_stepWith h

theorem exists_stepWith_eq_next (r : Byte) (s : State) : ∃ t, stepWith r s = .next t := by
  rcases stepWith_cases r s with ⟨f, -, hn⟩ | ⟨-, f, -, hn⟩ | ⟨-, i, -, hn⟩
  · exact ⟨_, hn⟩
  · exact ⟨_, hn⟩
  · obtain ⟨t, ht, -⟩ := exec_effect i (s.presentRnd r).advance
    exact ⟨t, hn.trans ht⟩

/-- Settles O12: `step` is a STEP too, and a STEP idles, records a fault or executes an instruction. -/
theorem everyStepAnswersANextState : Obligations.EveryStepAnswersANextState := by
  unfold Obligations.EveryStepAnswersANextState
  exact fun s => ⟨exists_stepWith_eq_next _ _, fun r => exists_stepWith_eq_next r s⟩

/-! ### The invariant (R24, R103, R240) -/

/-- A return address that CALL pushes is the advanced `pc`; the other slots stay. -/
theorem stack_set_le {stack : Vector Word 16} {w : Word} {p bound : Nat} (hp : p < 16)
    (h : ∀ j : Fin 16, stack[j].toNat ≤ bound) (hw : w.toNat ≤ bound) (j : Fin 16) :
    (stack.set p w)[j].toNat ≤ bound := by
  rw [Fin.getElem_fin, Vector.getElem_set]
  split
  · exact hw
  · exact h j

/-- Storing inside the arena keeps the invariant: the memory stays canonical, and no other field changes. -/
theorem State.Inv.storeBytes {a : Nat} {bs : List Byte} (h : s.Inv) (hb : a + bs.length ≤ 4096) :
    (s.storeBytes a bs).Inv := by
  obtain ⟨hmem, hcfg, hpc, hstack, hfault⟩ := h
  refine ⟨?_, ?_, ?_, ?_, ?_⟩
  · rw [State.storeBytes_cfg]
    exact State.wf_storeBytes hmem hb
  all_goals simpa

/-- An instruction executed in range keeps the invariant. At entry `pc = a + 2` with `a` at most 0xFFE. -/
theorem Effect.inv (he : Effect i s t) (hs : s.Inv) (hr : s.status = .running) (hlo : 2 ≤ s.pc.toNat)
    (hhi : s.pc.toNat ≤ 0x1000) : t.Inv := by
  cases he with
  | fault f hf =>
    refine ⟨hs.mem, hs.cfg, ?_, hs.stack, fun g a hg ha => ?_⟩
    · rw [State.raise_pc]
      bv_omega
    · cases hg
      exact (State.addr?_of_fault? hf ha).symm
  | registers | screen | index | delay | sound => exact ⟨hs.mem, hs.cfg, hs.pc, hs.stack, hs.fault⟩
  | control pc h =>
    have hpc := hs.pc
    refine ⟨hs.mem, hs.cfg, ?_, hs.stack, fun f a hf => nomatch hr.symm.trans hf⟩
    show pc.toNat ≤ 0x10FE
    obtain rfl | rfl | rfl | h := h
    · exact hpc
    · bv_omega
    · bv_omega
    · exact h
  | call nnn hi hsp =>
    refine ⟨hs.mem, hs.cfg, ?_, stack_set_le hsp hs.stack hhi, fun f a hf => nomatch hr.symm.trans hf⟩
    have := nnn.isLt
    show (addrOperand nnn).toNat ≤ 0x10FE
    rw [addrOperand_toNat]
    omega
  | ret hi hsp =>
    exact ⟨hs.mem, hs.cfg, (hs.stack ⟨s.sp.val - 1, by omega⟩).trans (by omega), hs.stack,
      fun f a hf => nomatch hr.symm.trans hf⟩
  | store bs hi hb hf => exact hs.storeBytes hb

theorem StepEffect.inv (he : StepEffect s t) (hs : s.Inv) : t.Inv := by
  cases he with
  | idle => exact hs
  | noFetch f r n hr hd =>
    refine ⟨hs.mem, hs.cfg, hs.pc, hs.stack, fun g a hg ha => ?_⟩
    cases hg
    obtain ⟨-, rfl⟩ | ⟨-, -, rfl⟩ := State.fetchDecode_eq_error.mp hd
    · exact Option.some.inj ha
    · exact Option.some.inj ha
  | runs i t r n hr hd he =>
    obtain ⟨hpc, -⟩ := State.fetchDecode_eq_ok.mp hd
    have hadv : (s.pc + 2).toNat = s.pc.toNat + 2 := by bv_omega
    refine he.inv ⟨hs.mem, hs.cfg, ?_, hs.stack, fun g a hg => nomatch hr.symm.trans hg⟩ hr ?_ ?_
    · show (s.pc + 2).toNat ≤ 0x10FE
      omega
    · show 2 ≤ (s.pc + 2).toNat
      omega
    · show (s.pc + 2).toNat ≤ 0x1000
      omega

/-- Settles O47, by the effects of a step. -/
theorem stepKeepsInvariant : Obligations.StepKeepsInvariant := by
  unfold Obligations.StepKeepsInvariant
  exact fun s t hs h => (stepEffect_of_step h).inv hs

/-! ### Every run of transactions (R41) -/

/-- What every transaction keeps holds in every state that transactions reach. -/
theorem Reaches.keeps {P : State → Prop} (hkeep : ∀ tr v, P v → P (transact tr v).1) (hs : P s) (h : Reaches s t) :
    P t := by
  induction h with
  | refl => exact hs
  | next u tr _ ih => exact hkeep tr u ih

theorem State.resetAll_inv (h : s.cfg.wf = true) : s.resetAll.Inv :=
  ⟨rfl, h, show State.reset.pc.toNat ≤ 0x10FE by decide,
    show ∀ j : Fin 16, State.reset.stack[j].toNat ≤ 0x1000 by decide, fun _ _ hf => nomatch hf⟩

/-- LOAD_ROM is refused whole, or stores the bytes inside the arena (R282). -/
theorem loadRom_cases (bytes : List Byte) (s : State) :
    (3584 < bytes.length ∧ loadRom bytes s = .refused .romTooLarge) ∨
    (bytes.length ≤ 3584 ∧ loadRom bytes s = .next (s.storeBytes 0x200 bytes)) := by
  rcases Nat.lt_or_ge 3584 bytes.length with h | h
  · exact .inl ⟨h, if_pos h⟩
  · exact .inr ⟨h, if_neg (Nat.not_lt.mpr h)⟩

theorem transact_inv (tr : Transaction) (h : s.Inv) : (transact tr s).1.Inv := by
  cases tr with
  | reset => exact State.resetAll_inv h.cfg
  | loadRom bytes =>
    obtain ⟨-, hn⟩ | ⟨hb, hn⟩ := loadRom_cases bytes s <;> simp only [transact, hn, stateAfter]
    · exact h
    · exact h.storeBytes (by omega)
  | step r =>
    obtain ⟨t, ht⟩ := exists_stepWith_eq_next r s
    simp only [transact, ht, stateAfter]
    exact (stepEffect_of_stepWith ht).inv h
  | keyEvent | tick => exact ⟨h.mem, h.cfg, h.pc, h.stack, h.fault⟩
  | fbRead | status => exact h

/-- Settles O48: each of the seven transactions keeps the invariant. -/
theorem transactionsKeepInvariant : Obligations.TransactionsKeepInvariant := by
  unfold Obligations.TransactionsKeepInvariant
  exact fun s t hs h => h.keeps (fun tr _ => transact_inv tr) hs

/-! ### The font region (R58) -/

theorem State.FontIntact.of_readByte (h : s.FontIntact) (hc : t.cfg = s.cfg)
    (hr : ∀ a, a < 80 → t.readByte a = s.readByte a) : t.FontIntact := by
  intro a ha
  rw [hr a ha, hc]
  exact h a ha

/-- Under FAULT the font region is intact, and stays protected. -/
def State.FontSafe (s : State) : Prop := s.cfg.fontWritePolicy = .fault ∧ s.FontIntact

theorem State.FontSafe.storeBytes {a : Nat} {bs : List Byte} (h : s.FontSafe) (ha : 0x04F < a) :
    (s.storeBytes a bs).FontSafe := by
  obtain ⟨hp, hf⟩ := h
  refine ⟨by rw [State.storeBytes_cfg, hp], hf.of_readByte (s.storeBytes_cfg a bs) fun b hb => ?_⟩
  exact State.readByte_storeBytes_of_outside (.inl (by omega))

theorem StepEffect.fontSafe (he : StepEffect s t) (h : s.FontSafe) : t.FontSafe := by
  cases he with
  | idle | noFetch => exact h
  | runs i t r n hr hd he =>
    cases he with
    | store bs hi hb hf => exact State.FontSafe.storeBytes h (hf h.1)
    | fault | registers | control | call | ret | screen | index | delay | sound => exact h

theorem State.resetAll_fontSafe (h : s.cfg.fontWritePolicy = .fault) : s.resetAll.FontSafe :=
  ⟨h, fun _ ha => (State.readByte_of_mem_nil rfl).trans (Memory.unlisted_of_lt ha)⟩

theorem transact_fontSafe (tr : Transaction) (h : s.FontSafe) : (transact tr s).1.FontSafe := by
  cases tr with
  | reset => exact State.resetAll_fontSafe h.1
  | loadRom bytes =>
    obtain ⟨-, hn⟩ | ⟨-, hn⟩ := loadRom_cases bytes s <;> simp only [transact, hn, stateAfter]
    · exact h
    · exact h.storeBytes (by decide)
  | step r =>
    obtain ⟨t, ht⟩ := exists_stepWith_eq_next r s
    simp only [transact, ht, stateAfter]
    exact (stepEffect_of_stepWith ht).fontSafe h
  | keyEvent | tick | fbRead | status => exact h

/-- Settles O49: a step's store is above the font under FAULT, and LOAD_ROM's always is. -/
theorem fontIsNeverWritten : Obligations.FontIsNeverWritten := by
  unfold Obligations.FontIsNeverWritten
  exact fun s t hp hf h => (h.keeps (P := State.FontSafe) (fun tr _ => transact_fontSafe tr) ⟨hp, hf⟩).2

/-- Settles O46: RESET of the reset state is the reset state. -/
theorem resetMeetsInvariant : Obligations.ResetMeetsInvariant :=
  ⟨State.resetAll_inv (s := State.reset) (by decide), (State.resetAll_fontSafe (s := State.reset) rfl).2⟩

end Sys2Proof.Machine
end

section
/-!
PROOFS. Fetch, decode and the faults of a step (`30_encoding.md`, `60_exceptions.md`).
-/
namespace Sys2Proof.Machine

variable {s t : State} {i : Instr} {f : Fault} {r : Byte}

/-! ### The cycle (R53, R71) -/

/-- Settles O9: the fetched word is the appended bytes, and an append is its shifted sum. -/
theorem fetchIsBigEndian : Obligations.FetchIsBigEndian := by
  unfold Obligations.FetchIsBigEndian
  exact fun s => ⟨State.fetchWord_of_gt, fun h => ⟨_, State.fetchWord_of_le h, toNat_append_eq _ _⟩⟩

/-- Settles O10: the fetch and the decode give the instruction; a step is a STEP in the state that has counted the draw. -/
theorem stepRunsTheDecodedInstruction : Obligations.StepRunsTheDecodedInstruction := by
  unfold Obligations.StepRunsTheDecodedInstruction
  intro s i hs hpc hdec
  have hd : s.fetchDecode = .ok i := State.fetchDecode_eq_ok.mpr ⟨hpc, hdec⟩
  exact ⟨fun r => stepWith_of_ok hs hd, (step_of_running hs).trans (stepWith_of_ok hs hd)⟩

/-- A running STEP outside the fetchable range records it and changes nothing else (R53). -/
theorem stepWith_of_pc_gt (hs : s.status = .running) (hpc : 0xFFE < s.pc.toNat) (r : Byte) :
    stepWith r s = .next { s with rnd := r, status := .faulted (.pcOutOfRange s.pc) } :=
  stepWith_of_error hs (State.fetchDecode_eq_error.mpr (.inl ⟨hpc, rfl⟩))

/-- Settles O11: the two ways in which fetch and decode fail, each recorded before the advance. -/
theorem fetchAndDecodeFaults : Obligations.FetchAndDecodeFaults := by
  unfold Obligations.FetchAndDecodeFaults
  intro s r hs
  constructor
  · intro hpc
    exact stepWith_of_pc_gt hs hpc r
  · intro op e hpc hop hdec
    subst hop
    exact stepWith_of_error hs (State.fetchDecode_eq_error.mpr (.inr ⟨hpc, ⟨e, hdec⟩, rfl⟩))

/-! ### Precise faults (R241) -/

/-- A running STEP that ends FAULTED differs from the state before it by the latch and the record. -/
theorem eq_recordFault_of_stepWith (hs : s.status = .running) (h : stepWith r s = .next t) (ht : t.status = .faulted f) :
    t = (s.presentRnd r).recordFault f := by
  rcases stepWith_cases r s with ⟨g, hs', -⟩ | ⟨-, g, -, hn⟩ | ⟨-, i, -, hn⟩
  · cases hs.symm.trans hs'
  · cases hn.symm.trans h
    cases ht
    rfl
  · obtain ⟨u, hu, ⟨g, hraise⟩ | ⟨hstatus, -⟩⟩ := exec_cases i (s.presentRnd r).advance
    · cases (hn.trans hu).symm.trans h
      rw [hraise, State.raise_advance] at ht ⊢
      cases ht
      rfl
    · cases (hn.trans hu).symm.trans h
      cases (hs.symm.trans hstatus.symm).trans ht

/-- Settles O13; for `step`, in the state that has counted the draw. -/
theorem faultsArePrecise : Obligations.FaultsArePrecise := by
  unfold Obligations.FaultsArePrecise
  intro s t f hs ht
  refine ⟨fun r h => eq_recordFault_of_stepWith hs h ht, fun h => ?_⟩
  rw [step_of_running hs] at h
  exact eq_recordFault_of_stepWith (s := { s with draws := s.draws + 1 }) hs h ht

/-! ### The classes and their records (R240, R243) -/

theorem Effect.status_of_no_fault (he : Effect i s t) (h : s.fault? i = none) : t.status = s.status := by
  cases he with
  | fault f hf => cases h.symm.trans hf
  | store bs => exact s.storeBytes_status _ bs
  | registers | control | call | ret | screen | index | delay | sound => rfl

/-- A running STEP ends FAULTED exactly when its fetch or decode faults, or the fetched instruction does. -/
theorem status_faulted_iff (hs : s.status = .running) (h : stepWith r s = .next t) : t.status = .faulted f ↔
    s.fetchDecode = .error f ∨ ∃ i, s.fetchDecode = .ok i ∧ s.advance.fault? i = some f := by
  cases hd : s.fetchDecode with
  | error g =>
    cases (stepWith_of_error hs hd).symm.trans h
    simp
  | ok i =>
    have hn := (stepWith_of_ok hs hd).symm.trans h
    have hlatch : (s.presentRnd r).advance.fault? i = s.advance.fault? i := rfl
    cases hf : s.advance.fault? i with
    | some g =>
      cases (exec_of_fault (hlatch.trans hf)).symm.trans hn
      simp [hf]
    | none =>
      have hrun : t.status = .running := ((effect_of_exec hn).status_of_no_fault (hlatch.trans hf)).trans hs
      simp [hrun, hf]

/-- One check and its record. -/
theorem fault_ite_eq_some {p : Prop} [Decidable p] {g : Fault} : (if p then some g else none) = some f ↔ p ∧ f = g := by
  rw [Option.ite_none_right_eq_some, Option.some.injEq, eq_comm (a := g)]

theorem State.storeFault?_eq_some {last : Nat} : s.storeFault? last = some f ↔
    (0xFFF < s.i.toNat + last ∧ f = .memOutOfRange (max s.i.toNat 0x1000)) ∨
    (s.i.toNat + last ≤ 0xFFF ∧ s.i.toNat ≤ 0x04F ∧ s.cfg.fontWritePolicy = .fault ∧ f = .fontWrite s.i.toNat) := by
  unfold State.storeFault?
  by_cases hr : 0xFFF < s.i.toNat + last
  · simp [hr, Nat.not_le.mpr hr, eq_comm]
  · rw [if_neg hr, fault_ite_eq_some]
    simp [hr, Nat.not_lt.mp hr, and_assoc]

/-- The check of a fault does not read `pc` or the latch, but for the address it records. -/
@[simp] theorem State.storeFault?_advance {last : Nat} : s.advance.storeFault? last = s.storeFault? last := rfl

@[simp] theorem State.getV_advance {x : Reg} : s.advance.getV x = s.getV x := rfl

/-- The faulting instructions with their conditions and records, over the state before the advance. -/
theorem State.fault?_advance_eq_some : s.advance.fault? i = some f ↔
    (∃ nnn, i = .call nnn ∧ s.sp.val = 16 ∧ f = .stackOverflow s.pc) ∨
    (i = .ret ∧ s.sp.val = 0 ∧ f = .stackUnderflow s.pc) ∨
    (∃ x y n, i = .drw x y n ∧ 0 < n ∧ 0x1000 < s.i.toNat + n ∧ f = .memOutOfRange (max s.i.toNat 0x1000)) ∨
    (∃ x, i = .loadBlock x ∧ 0xFFF < s.i.toNat + x.val ∧ f = .memOutOfRange (max s.i.toNat 0x1000)) ∨
    (∃ last, ((∃ x, i = .ldB x ∧ last = 2) ∨ (∃ x, i = .storeBlock x ∧ last = x.val)) ∧
      ((0xFFF < s.i.toNat + last ∧ f = .memOutOfRange (max s.i.toNat 0x1000)) ∨
      (s.i.toNat + last ≤ 0xFFF ∧ s.i.toNat ≤ 0x04F ∧ s.cfg.fontWritePolicy = .fault ∧ f = .fontWrite s.i.toNat))) ∨
    (∃ x, (i = .skp x ∨ i = .sknp x) ∧ 15 < (s.getV x).toNat ∧ f = .keyIndexOutOfRange (s.getV x)) := by
  simp only [← State.storeFault?_eq_some]
  cases i with
  | ldB | storeBlock => simp [State.fault?]
  | call | ret | drw | loadBlock | skp | sknp =>
    simp only [State.fault?, fault_ite_eq_some]
    simp [and_assoc]
  | _ => simp [State.fault?]

/-- Settles O15: the fault of the fetch, else of the decode, else of the instruction; a fault is precise, so `pc` stays. -/
theorem faultClassesAndRecords : Obligations.FaultClassesAndRecords := by
  unfold Obligations.FaultClassesAndRecords
  refine ⟨fun s t r f hs h => ?_, fun s t r f hs h ht => ?_, fun _ _ _ _ => ⟨rfl, rfl, rfl, rfl, rfl, rfl, rfl⟩⟩
  · rw [status_faulted_iff hs h, State.fetchDecode_eq_error]
    simp only [State.fetchDecode_eq_ok, State.fault?_advance_eq_some]
    constructor
    · rintro ((hpc | ⟨hpc, he, hf⟩) | ⟨i, ⟨hpc, hi⟩, hf⟩)
      · exact .inl hpc
      · exact .inr ⟨hpc, _, rfl, .inl ⟨he, hf⟩⟩
      · exact .inr ⟨hpc, _, rfl, .inr ⟨i, hi, hf⟩⟩
    · rintro (hpc | ⟨hpc, op, rfl, ⟨he, hf⟩ | ⟨i, hi, hf⟩⟩)
      · exact .inl (.inl hpc)
      · exact .inl (.inr ⟨hpc, he, hf⟩)
      · exact .inr ⟨i, ⟨hpc, hi⟩, hf⟩
  · rw [eq_recordFault_of_stepWith hs h ht]
    rfl

/-! ### The draw (R252) -/

theorem State.storeBytes_presentRnd (s : State) (r : Byte) (a : Nat) (bs : List Byte) :
    (s.presentRnd r).storeBytes a bs = (s.storeBytes a bs).presentRnd r := by
  induction bs generalizing s a with
  | nil => rfl
  | cons b bs ih => exact ih (s.storeByte a b) (a + 1)

theorem State.setVsFrom_presentRnd (s : State) (r : Byte) (k : Nat) (bs : List Byte) :
    (s.presentRnd r).setVsFrom k bs = (s.setVsFrom k bs).presentRnd r := by
  induction bs generalizing s k with
  | nil => rfl
  | cons b bs ih =>
    by_cases hk : k < 16
    · simp only [State.setVsFrom, dif_pos hk]
      exact ih (s.setV ⟨k, hk⟩ b) (k + 1)
    · simp only [State.setVsFrom, dif_neg hk]

theorem State.writeResultFlag_presentRnd (s : State) (r : Byte) (x : Reg) (b : Byte) (flag : Bool) :
    (s.presentRnd r).writeResultFlag x b flag = (s.writeResultFlag x b flag).presentRnd r := by
  unfold State.writeResultFlag
  rw [State.presentRnd_cfg]
  by_cases hl : s.cfg.flagWriteLast = true
  · rw [if_pos hl, if_pos hl]; rfl
  · rw [if_neg hl, if_neg hl]; rfl

theorem State.skipIf_presentRnd (s : State) (r : Byte) (c : Bool) :
    (s.presentRnd r).skipIf c = (s.skipIf c).presentRnd r := by
  cases c <;> rfl

/-- An instruction that raises no fault and is not RND carries another draw through to its next state. -/
theorem exec_presentRnd_of_no_fault (r : Byte) (hi : ∀ x kk, i ≠ .rnd x kk) (hf : s.fault? i = none) :
    ∃ t, exec i s = .next t ∧ exec i (s.presentRnd r) = .next (t.presentRnd r) := by
  cases i with
  | rnd x kk => exact absurd rfl (hi x kk)
  | nop | cls | jp | jpV0 | ldKk | addKk | ldVy | orVy | andVy | xorVy => exact ⟨_, rfl, rfl⟩
  | ldVxDt | ldDtVx | ldStVx | ldI | addI | ldF => exact ⟨_, rfl, rfl⟩
  | seKk | sneKk | seVy | sneVy => exact ⟨_, rfl, congrArg _ (s.skipIf_presentRnd r _)⟩
  | addVy | subVy | shr | subnVy | shl => exact ⟨_, rfl, congrArg _ (s.writeResultFlag_presentRnd r _ _ _)⟩
  | call nnn =>
    have hsp := State.sp_lt_of_no_fault hf
    exact ⟨_, exec_call_of_lt hsp, exec_call_of_lt (s := s.presentRnd r) hsp⟩
  | ret =>
    have hsp := State.sp_pos_of_no_fault hf
    exact ⟨_, exec_ret_of_pos hsp, exec_ret_of_pos (s := s.presentRnd r) hsp⟩
  | skp x =>
    have hk := State.key_lt_of_no_fault (.inl rfl) hf
    exact ⟨_, exec_skp_of_key (k := ⟨_, hk⟩) rfl,
      (exec_skp_of_key (s := s.presentRnd r) (k := ⟨_, hk⟩) rfl).trans (congrArg _ (s.skipIf_presentRnd r _))⟩
  | sknp x =>
    have hk := State.key_lt_of_no_fault (.inr rfl) hf
    exact ⟨_, exec_sknp_of_key (k := ⟨_, hk⟩) rfl,
      (exec_sknp_of_key (s := s.presentRnd r) (k := ⟨_, hk⟩) rfl).trans (congrArg _ (s.skipIf_presentRnd r _))⟩
  | ldVxK x =>
    cases hk : s.firstPressed with
    | none => exact ⟨_, exec_ldVxK_of_none hk, exec_ldVxK_of_none (s := s.presentRnd r) hk⟩
    | some k => exact ⟨_, exec_ldVxK_of_some hk, exec_ldVxK_of_some (s := s.presentRnd r) hk⟩
  | drw x y n =>
    have hr := State.rows_le_of_no_fault hf
    exact ⟨_, exec_drw_of_le hr, exec_drw_of_le (s := s.presentRnd r) hr⟩
  | loadBlock x =>
    have hr := State.block_le_of_no_fault hf
    exact ⟨_, exec_loadBlock_of_le hr,
      (exec_loadBlock_of_le (s := s.presentRnd r) hr).trans (congrArg _ (s.setVsFrom_presentRnd r 0 _))⟩
  | ldB x =>
    exact ⟨_, State.storeFromI_of_none (last := 2) rfl (by omega) hf,
      (State.storeFromI_of_none (s := s.presentRnd r) (last := 2) rfl (by omega) hf).trans
        (congrArg _ (s.storeBytes_presentRnd r _ _))⟩
  | storeBlock x =>
    exact ⟨_, State.storeFromI_of_none State.length_firstVs (by omega) hf,
      (State.storeFromI_of_none (s := s.presentRnd r) State.length_firstVs (by omega) hf).trans
        (congrArg _ (s.storeBytes_presentRnd r _ _))⟩

theorem exec_presentRnd (r : Byte) (hi : ∀ x kk, i ≠ .rnd x kk) :
    ∃ t, exec i s = .next t ∧ exec i (s.presentRnd r) = .next (t.presentRnd r) := by
  cases hf : s.fault? i with
  | some f => exact ⟨_, exec_of_fault hf, exec_of_fault (s := s.presentRnd r) hf⟩
  | none => exact exec_presentRnd_of_no_fault r hi hf

/-- Settles O16: an instruction that is not RND carries the latched draw through, and a fault of the fetch or the decode is
the same for every draw. -/
theorem onlyRndReadsTheDraw : Obligations.OnlyRndReadsTheDraw := by
  unfold Obligations.OnlyRndReadsTheDraw
  intro s t r r' hs hrnd h
  cases hd : s.fetchDecode with
  | error f =>
    cases (stepWith_of_error hs hd).symm.trans h
    exact stepWith_of_error hs hd
  | ok i =>
    have hi (x : Reg) (kk : Byte) (hrndi : i = .rnd x kk) : False := hrnd x kk (hd.trans (congrArg _ hrndi))
    obtain ⟨u, hu, hu'⟩ := exec_presentRnd (s := (s.presentRnd r).advance) r' hi
    cases ((stepWith_of_ok hs hd).trans hu).symm.trans h
    exact (stepWith_of_ok hs hd).trans hu'

end Sys2Proof.Machine
end

section
/-!
PROOFS. Which instructions may change which field (`10_state.md`): each rule reads off the effects of a step.
-/
namespace Sys2Proof.Machine

variable {s t : State} {i : Instr}

/-- A field that the advance, the latch and the record leave alone is changed by an effect of the fetched instruction. -/
theorem StepEffect.effect_of_changed {α : Type} (field : State → α)
    (hfield : ∀ pc r n st, field { s with pc := pc, rnd := r, draws := n, status := st } = field s)
    (he : StepEffect s t) (hne : field t ≠ field s) :
    ∃ i r n, s.fetchDecode = .ok i ∧ Effect i { s with pc := s.pc + 2, rnd := r, draws := n } t := by
  cases he with
  | idle => exact absurd rfl hne
  | noFetch => exact absurd (hfield _ _ _ _) hne
  | runs i t r n hs hd he => exact ⟨i, r, n, hd, he⟩

theorem Effect.keys_cfg (he : Effect i s t) : t.keys = s.keys ∧ t.cfg = s.cfg := by
  cases he with
  | store bs => exact ⟨s.storeBytes_keys _ bs, s.storeBytes_cfg _ bs⟩
  | fault | registers | control | call | ret | screen | index | delay | sound => exact ⟨rfl, rfl⟩

/-- Settles O50: no effect writes a key flag or a parameter. -/
theorem stepsNeverWriteKeys : Obligations.StepsNeverWriteKeys := by
  unfold Obligations.StepsNeverWriteKeys
  intro s t h
  cases stepEffect_of_steps h with
  | idle | noFetch => exact ⟨rfl, rfl⟩
  | runs i t r n hs hd he => exact he.keys_cfg

/-- Settles O51: DT is written by one effect, and ST by one. -/
theorem timersOnlySetByTheirOpcodes : Obligations.TimersOnlySetByTheirOpcodes := by
  unfold Obligations.TimersOnlySetByTheirOpcodes
  intro s t h
  constructor
  · intro hne
    obtain ⟨i, r, n, hd, he⟩ := (stepEffect_of_steps h).effect_of_changed State.dt (fun _ _ _ _ => rfl) hne
    cases he with
    | delay b hi =>
      obtain ⟨x, rfl⟩ := hi
      exact ⟨x, hd⟩
    | store bs => exact absurd (State.storeBytes_dt _ _ bs) hne
    | fault | registers | control | call | ret | screen | index | sound => exact absurd rfl hne
  · intro hne
    obtain ⟨i, r, n, hd, he⟩ := (stepEffect_of_steps h).effect_of_changed State.st (fun _ _ _ _ => rfl) hne
    cases he with
    | sound b hi =>
      obtain ⟨x, rfl⟩ := hi
      exact ⟨x, hd⟩
    | store bs => exact absurd (State.storeBytes_st _ _ bs) hne
    | fault | registers | control | call | ret | screen | index | delay => exact absurd rfl hne

/-- Settles O52: the framebuffer is written by one effect, which CLS and DRW have. -/
theorem framebufferOnlyByClearAndDraw : Obligations.FramebufferOnlyByClearAndDraw := by
  unfold Obligations.FramebufferOnlyByClearAndDraw
  intro s t h hne
  obtain ⟨i, r, n, hd, he⟩ := (stepEffect_of_steps h).effect_of_changed State.fb (fun _ _ _ _ => rfl) hne
  cases he with
  | screen v fb hi =>
    obtain rfl | ⟨x, y, n, rfl⟩ := hi
    · exact .inl hd
    · exact .inr ⟨x, y, n, hd⟩
  | store bs => exact absurd (State.storeBytes_fb _ _ bs) hne
  | fault | registers | control | call | ret | index | delay | sound => exact absurd rfl hne

/-- Settles O53: SP is written by the effects of CALL and RET, and a slot by that of CALL. -/
theorem stackOnlyByCallAndRet : Obligations.StackOnlyByCallAndRet := by
  unfold Obligations.StackOnlyByCallAndRet
  intro s t h
  constructor
  · intro hne
    obtain ⟨i, r, n, hd, he⟩ := (stepEffect_of_steps h).effect_of_changed State.sp (fun _ _ _ _ => rfl) hne
    cases he with
    | call nnn hi => exact .inr ⟨nnn, hi ▸ hd⟩
    | ret hi => exact .inl (hi ▸ hd)
    | store bs => exact absurd (State.storeBytes_sp _ _ bs) hne
    | fault | registers | control | screen | index | delay | sound => exact absurd rfl hne
  · intro hne
    obtain ⟨i, r, n, hd, he⟩ := (stepEffect_of_steps h).effect_of_changed State.stack (fun _ _ _ _ => rfl) hne
    cases he with
    | call nnn hi => exact ⟨nnn, hi ▸ hd⟩
    | store bs => exact absurd (State.storeBytes_stack _ _ bs) hne
    | fault | registers | control | ret | screen | index | delay | sound => exact absurd rfl hne

/-- Settles O54: `I` is written by one effect, which the three index instructions have. -/
theorem indexOnlyByItsOpcodes : Obligations.IndexOnlyByItsOpcodes := by
  unfold Obligations.IndexOnlyByItsOpcodes
  intro s t h hne
  obtain ⟨i, r, n, hd, he⟩ := (stepEffect_of_steps h).effect_of_changed State.i (fun _ _ _ _ => rfl) hne
  cases he with
  | index w hi =>
    obtain ⟨nnn, rfl⟩ | ⟨x, rfl⟩ | ⟨x, rfl⟩ := hi
    · exact .inl ⟨nnn, hd⟩
    · exact .inr (.inl ⟨x, hd⟩)
    · exact .inr (.inr ⟨x, hd⟩)
  | store bs => exact absurd (State.storeBytes_i _ _ bs) hne
  | fault | registers | control | call | ret | screen | delay | sound => exact absurd rfl hne

/-- Settles O55: memory is written by one effect, whose bytes lie from `I` on inside the arena. -/
theorem memoryOnlyByStores : Obligations.MemoryOnlyByStores := by
  unfold Obligations.MemoryOnlyByStores
  intro s t a h hne
  obtain ⟨i, r, n, hd, he⟩ :=
    (stepEffect_of_steps h).effect_of_changed (fun u => u.readByte a) (fun _ _ _ _ => rfl) hne
  cases he with
  | store bs hi hb =>
    have hin : s.i.toNat ≤ a ∧ a < s.i.toNat + bs.length := by
      by_contra hout
      have hoff : a < s.i.toNat ∨ s.i.toNat + bs.length ≤ a := by omega
      exact hne (State.readByte_storeBytes_of_outside hoff)
    have hend : s.i.toNat + bs.length ≤ 0x1000 := hb
    refine ⟨by omega, hin.1, ?_⟩
    obtain ⟨x, rfl, hlen⟩ | ⟨x, rfl, hlen⟩ := hi
    · exact .inl ⟨x, hd, by omega⟩
    · exact .inr ⟨x, hd, by omega⟩
  | fault | registers | control | call | ret | screen | index | delay | sound => exact absurd rfl hne

/-- Settles O56: the effects that write a register name the instructions that may change VF by them. -/
theorem vfWriters : Obligations.VfWriters := by
  unfold Obligations.VfWriters
  intro s t h hne
  obtain ⟨i, r, n, hd, he⟩ :=
    (stepEffect_of_steps h).effect_of_changed (fun u => u.getV 15) (fun _ _ _ _ => rfl) hne
  refine ⟨i, hd, ?_⟩
  cases he with
  | registers v hv => exact hv hne
  | screen v fb _ hv => exact hv hne
  | store bs => exact absurd (congrArg (·[15]) (State.storeBytes_v _ _ bs)) hne
  | fault | control | call | ret | index | delay | sound => exact absurd rfl hne

end Sys2Proof.Machine
end

section
/-!
PROOFS. The port transactions (`60_exceptions.md`, `70_reset_and_hazards.md`) and the host's aid.
-/
namespace Sys2Proof.Machine

variable {s t : State} {f : Fault}

/-! ### RESET and the terminal fault (R242, R246, R280) -/

/-- While FAULTED every transaction but RESET leaves the record. -/
theorem transact_status_of_faulted {tr : Transaction} (hs : s.status = .faulted f) (htr : tr ≠ .reset) :
    (transact tr s).1.status = .faulted f := by
  cases tr with
  | reset => exact absurd rfl htr
  | loadRom bytes =>
    obtain ⟨-, hn⟩ | ⟨-, hn⟩ := loadRom_cases bytes s <;> simp only [transact, hn, stateAfter]
    · exact hs
    · exact (s.storeBytes_status _ bytes).trans hs
  | step r => simp only [transact, stepWith_of_faulted hs, stateAfter, hs]
  | keyEvent | tick | fbRead | status => exact hs

/-- Settles O14: a STEP idles, RESET gives the reset state's status, and every other transaction keeps the record. -/
theorem faultsAreTerminal : Obligations.FaultsAreTerminal := by
  unfold Obligations.FaultsAreTerminal
  intro s f hs
  refine ⟨step_of_faulted hs, fun r => ?_, rfl, fun _ _ => rfl,
    fun bytes => transact_status_of_faulted hs (by simp), rfl⟩
  simp only [transact, stepWith_of_faulted hs, stateAfter]

/-- Settles O2: the reset state but for its parameters, whose font is what memory that lists nothing reads as. -/
theorem resetClearsEverything : Obligations.ResetClearsEverything := by
  unfold Obligations.ResetClearsEverything
  constructor
  · intro s f tr hs hrun
    by_contra htr
    cases (transact_status_of_faulted hs htr).symm.trans hrun
  · intro s
    have hread (a : Nat) : s.resetAll.readByte a = Memory.unlisted s.cfg a := State.readByte_of_mem_nil rfl
    exact ⟨s.resetAll, rfl, State.getV_reset, rfl, rfl, rfl, State.stack_reset, rfl, rfl, State.key_reset,
      State.pixel_reset, fun a h => (hread a).trans (Memory.unlisted_of_lt h),
      fun a h _ => (hread a).trans (Memory.unlisted_of_ge h), rfl, rfl⟩

/-! ### LOAD_ROM, KEY_EVENT and the readouts -/

theorem State.storeBytes_frame (s : State) (a : Nat) (bs : List Byte) :
    s.storeBytes a bs = { s with mem := (s.storeBytes a bs).mem } := by
  induction bs generalizing s a with
  | nil => rfl
  | cons b bs ih => exact ih (s.storeByte a b) (a + 1)

/-- Settles O44: a ROM that fits is one block store at 0x200, and a longer one is refused. -/
theorem loadRomCopiesVerbatim : Obligations.LoadRomCopiesVerbatim := by
  unfold Obligations.LoadRomCopiesVerbatim
  intro s bytes hwf
  obtain ⟨hlen, hn⟩ | ⟨hlen, hn⟩ := loadRom_cases bytes s
  · refine ⟨fun h => by omega, fun _ => ?_⟩
    simp only [transact, hn, stateAfter, refusalOf]
  · refine ⟨fun _ => ⟨s.storeBytes 0x200 bytes, ?_, s.storeBytes_frame _ _, fun j hj => ?_, fun a ha => ?_⟩,
      fun h => by omega⟩
    · simp only [transact, hn, stateAfter, refusalOf]
    · exact State.readByte_storeBytes hwf (by omega) hj
    · exact State.readByte_storeBytes_of_outside ha

theorem State.length_fbRead : s.fbRead.length = 2048 := by simp [State.fbRead]

/-- FB_READ is row-major: the index of a pixel gives back its column and its row (R253). -/
theorem State.getElem?_fbRead (u : Fin 64) (w : Fin 32) : s.fbRead[u.val + 64 * w.val]? = some (s.pixel u w) := by
  have hlt : u.val + 64 * w.val < 2048 := by omega
  have hu : Fin.ofNat 64 ((u.val + 64 * w.val) % 64) = u :=
    Fin.ext (show (u.val + 64 * w.val) % 64 % 64 = u.val by omega)
  have hw : Fin.ofNat 32 ((u.val + 64 * w.val) / 64) = w :=
    Fin.ext (show (u.val + 64 * w.val) / 64 % 32 = w.val by omega)
  simp only [State.fbRead, List.getElem?_map, List.getElem?_range hlt, Option.map_some, hu, hw]

/-- Settles O45: KEY_EVENT is one key write, and the readouts return the state as it was. -/
theorem keyEventAndReadouts : Obligations.KeyEventAndReadouts := by
  unfold Obligations.KeyEventAndReadouts
  intro s
  refine ⟨fun k p => ⟨s.setKey k p, rfl, ?_, fun j hj => ?_, rfl⟩, ⟨s.fbRead, rfl, State.length_fbRead, ?_⟩, rfl⟩
  · rw [State.key_setKey, if_pos rfl]
  · rw [State.key_setKey, if_neg (Ne.symm hj)]
  · exact State.getElem?_fbRead

/-! ### The host's aid (log 4, 21) -/

/-- A word stored at an address reads back as its two bytes, the high one first (R54). -/
theorem State.readByte_append_bytesOfWord {a : Nat} {op : Word} (h : Memory.wf s.cfg s.mem = true) (ha : a + 2 ≤ 4096) :
    (s.storeBytes a (bytesOfWord op)).readByte a ++ (s.storeBytes a (bytesOfWord op)).readByte (a + 1) = op := by
  have hhi := State.readByte_storeBytes (bs := bytesOfWord op) h ha (j := 0) (by simp [bytesOfWord])
  have hlo := State.readByte_storeBytes (bs := bytesOfWord op) h ha (j := 1) (by simp [bytesOfWord])
  rw [Nat.add_zero] at hhi
  rw [hhi, hlo]
  exact wordOfBytes_bytesOfWord

theorem State.readyToFetch_pc_le (s : State) : s.readyToFetch.pc.toNat ≤ 0xFFE := by
  show (if s.pc.toNat > 0xFFE then 0x200 else s.pc).toNat ≤ 0xFFE
  split
  · decide
  · omega

theorem State.fetchWord_storeWordAtPc {op : Word} (h : Memory.wf s.cfg s.mem = true) (hpc : s.pc.toNat ≤ 0xFFE) :
    (s.storeWordAtPc op).fetchWord = .ok op := by
  have hpc' : (s.storeWordAtPc op).pc = s.pc := s.storeBytes_pc _ _
  rw [State.fetchWord_of_le (by rw [hpc']; exact hpc), hpc']
  exact congrArg _ (State.readByte_append_bytesOfWord h (by omega))

/-- Settles O57: the aid stores the word at a `pc` from which it can be fetched. -/
theorem placedWordIsFetched : Obligations.PlacedWordIsFetched := by
  unfold Obligations.PlacedWordIsFetched
  intro s w hwf
  have hword : tableWord 16 w = BitVec.ofNat 16 w := BitVec.eq_of_toNat_eq (by simp [tableWord])
  rw [State.withFetchWord, hword]
  exact ⟨State.storeBytes_status _ _ _, State.fetchWord_storeWordAtPc (s := s.readyToFetch) hwf s.readyToFetch_pc_le⟩

end Sys2Proof.Machine
end

section
/-!
PROOFS. Control flow (`40_control_flow.md`): NOP, the jumps, CALL and RET.
-/
namespace Sys2Proof.Machine

variable {s t : State} {nnn : Addr12}

theorem decodeWord_sysIgnore_of_lt {op : Word} (h : op.toNat < 0x1000) (hcls : op ≠ 0x00E0) (hret : op ≠ 0x00EE) :
    decodeWord .sysIgnore op = .ok .nop := by
  have hf : opFamily op = 0 := by rw [opFamily_eq]; omega
  refine decodeWord_eq_ok.mpr ?_
  simp only [decodeWord?, hf, decodeZero, if_neg hcls, if_neg hret]

/-- Settles O17: NOP answers its state; a word below 0x1000 is of family 0, where `SYS_IGNORE` has NOP for the rest. -/
theorem nopDoesNothing : Obligations.NopDoesNothing := by
  unfold Obligations.NopDoesNothing
  exact ⟨fun _ => rfl, rfl, rfl, fun op => decodeWord_sysIgnore_of_lt⟩

/-- What a write of `pc` shows of a jump to `target` (R101, R104). -/
theorem setPc_jumps {w : Word} {target : Nat} (hw : w.toNat = target) :
    ∃ t, (.next (s.setPc w) : Result) = .next t ∧ t.pc.toNat = target ∧ t = { s with pc := t.pc } ∧
      (s.status = .running → 0xFFE < target → ∀ r, stepWith r t =
        .next { t with rnd := r, status := .faulted (.pcOutOfRange (BitVec.ofNat 16 target)) }) := by
  subst hw
  refine ⟨s.setPc w, rfl, rfl, rfl, fun hs hgt r => ?_⟩
  rw [BitVec.ofNat_toNat, BitVec.setWidth_eq]
  exact stepWith_of_pc_gt (s := s.setPc w) hs hgt r

/-- Settles O18: each jump is one write of `pc`. -/
theorem jumpsSetPc : Obligations.JumpsSetPc := by
  unfold Obligations.JumpsSetPc
  rintro s nnn i target (⟨rfl, rfl⟩ | ⟨rfl, rfl⟩)
  · exact setPc_jumps addrOperand_toNat
  · exact setPc_jumps State.offsetTarget_toNat

theorem stack_set_getElem {stack : Vector Word 16} {w : Word} {p : Nat} (hp : p < 16) (j : Fin 16) :
    (stack.set p w)[j] = if p = j.val then w else stack[j] := by
  simp [Vector.getElem_set]

/-- Settles O20: the push writes the slot at SP and no other; a full stack raises. -/
theorem callPushesAndJumps : Obligations.CallPushesAndJumps := by
  unfold Obligations.CallPushesAndJumps
  refine fun s nnn => ⟨fun hsp => ?_, fun hsp => exec_call_of_full hsp⟩
  refine ⟨_, exec_call_of_lt hsp, addrOperand_toNat, rfl, fun j => ⟨fun hj => ?_, fun hj => ?_⟩, rfl⟩
  · exact (stack_set_getElem hsp j).trans (if_pos hj.symm)
  · exact (stack_set_getElem hsp j).trans (if_neg (Ne.symm hj))

/-- Settles O21: the pop reads the slot below SP and writes none; an empty stack raises. -/
theorem retPopsIntoPc : Obligations.RetPopsIntoPc := by
  unfold Obligations.RetPopsIntoPc
  refine fun s => ⟨fun j hj => ⟨_, exec_ret_of_pos (by omega), ?_, ?_, rfl⟩, fun hsp => exec_ret_of_empty hsp⟩
  · have hslot : s.sp.val - 1 = j.val := by omega
    simp only [hslot, Fin.getElem_fin]
  · show s.sp.val - 1 = j.val
    omega

/-- Settles O22: the slot that RET reads is the one CALL wrote. -/
theorem callThenRetReturns : Obligations.CallThenRetReturns := by
  unfold Obligations.CallThenRetReturns
  intro s t u nnn hsp hcall husp hustack
  cases (exec_call_of_lt hsp).symm.trans hcall
  have hu : u.sp.val = s.sp.val + 1 := congrArg Fin.val husp
  refine ⟨_, exec_ret_of_pos (by omega), ?_, Fin.ext ?_⟩
  · simp only [hu, hustack, Nat.add_sub_cancel]
    exact Vector.getElem_set_self hsp
  · show u.sp.val - 1 = s.sp.val
    omega

end Sys2Proof.Machine
end

section
/-!
PROOFS. The instructions with a flag (`41_alu.md`): sum, difference and shift, in either order of the two writes.
-/
namespace Sys2Proof.Machine

variable {s : State} {x y : Reg}

theorem flagByte_toNat (b : Bool) : (flagByte b).toNat = b.toNat := by cases b <;> rfl

/-- What `writeResultFlag` shows of a result and a flag (R142): both when Vx is not VF, else the one written last. -/
theorem writeResultFlag_writes {b : Byte} {c : Bool} {result flag : Nat} (hb : b.toNat = result) (hc : c.toNat = flag) :
    ∃ t, (.next (s.writeResultFlag x b c) : Result) = .next t ∧ t = { s with v := t.v } ∧
      (∀ z, z ≠ x → z ≠ 15 → t.getV z = s.getV z) ∧
      (x ≠ 15 → (t.getV x).toNat = result ∧ (t.getV 15).toNat = flag) ∧
      (x = 15 → s.cfg.flagWriteLast = true → (t.getV 15).toNat = flag) ∧
      (x = 15 → s.cfg.flagWriteLast = false → (t.getV 15).toNat = result) := by
  subst hb hc
  rw [← flagByte_toNat]
  refine ⟨_, rfl, s.writeResultFlag_frame x b c, fun z hzx hz => ?_, fun hx => ⟨?_, ?_⟩, fun hx hlast => ?_,
    fun hx hlast => ?_⟩
  all_goals rw [State.getV_writeResultFlag]
  · rw [if_neg fun h => hz h.1, if_neg hzx]
  · rw [if_neg fun h => hx h.1, if_pos rfl]
  · rw [if_pos ⟨rfl, .inl hx⟩]
  · rw [if_pos ⟨rfl, .inr hlast⟩]
  · rw [if_neg fun h => h.2.elim (fun hne => hne hx) (by simp [hlast]), if_pos hx.symm]

theorem carryOut_toNat {a b : Byte} : (carryOut a b).toNat = if 256 ≤ a.toNat + b.toNat then 1 else 0 := by
  unfold carryOut
  by_cases h : 256 ≤ a.toNat + b.toNat <;> simp [h]

theorem notBorrow_toNat {a b : Byte} : (notBorrow a b).toNat = if b.toNat ≤ a.toNat then 1 else 0 := by
  unfold notBorrow
  by_cases h : b.toNat ≤ a.toNat <;> simp [h]

theorem shiftOutRight_toNat {a : Byte} : (shiftOutRight a).toNat = a.toNat % 2 :=
  (Nat.toNat_testBit _ _).trans (by rw [Nat.pow_zero, Nat.div_one])

theorem shiftOutLeft_toNat {a : Byte} : (shiftOutLeft a).toNat = a.toNat / 128 := by
  have := a.isLt
  exact (Nat.toNat_testBit _ _).trans (by omega)

theorem State.shiftOperand_toNat : (s.shiftOperand x y).toNat =
    if s.cfg.shiftReadsVy = true then (s.getV y).toNat else (s.getV x).toNat := by
  unfold State.shiftOperand
  split <;> rfl

/-- Settles O25: the result is the sum modulo 256, the flag its carry. -/
theorem addSetsCarry : Obligations.AddSetsCarry := by
  unfold Obligations.AddSetsCarry
  rintro s x y _ _ rfl rfl
  exact writeResultFlag_writes addMod_toNat carryOut_toNat

/-- Settles O26: the result is the difference modulo 256, the flag not-borrow, with the operands in either order. -/
theorem subtractSetsNotBorrow : Obligations.SubtractSetsNotBorrow := by
  unfold Obligations.SubtractSetsNotBorrow
  rintro s x y i _ _ _ (⟨rfl, rfl, rfl⟩ | ⟨rfl, rfl, rfl⟩) rfl
  · exact writeResultFlag_writes subMod_toNat notBorrow_toNat
  · exact writeResultFlag_writes subMod_toNat notBorrow_toNat

/-- Settles O27: the result is the operand shifted by one, the flag its bit 0 or bit 7. -/
theorem shiftsDropABitIntoVf : Obligations.ShiftsDropABitIntoVf := by
  unfold Obligations.ShiftsDropABitIntoVf
  rintro s x y i src _ _ hsrc (⟨rfl, rfl, rfl⟩ | ⟨rfl, rfl, rfl⟩) <;> rw [hsrc, ← State.shiftOperand_toNat]
  · refine writeResultFlag_writes ?_ shiftOutRight_toNat
    rw [BitVec.toNat_ushiftRight, Nat.shiftRight_one]
  · refine writeResultFlag_writes ?_ shiftOutLeft_toNat
    rw [BitVec.toNat_shiftLeft, Nat.shiftLeft_eq]

/-- Settles O28: without `SHIFT_READS_VY` the operand is Vx whatever the y field. -/
theorem shiftsIgnoreY : Obligations.ShiftsIgnoreY := by
  unfold Obligations.ShiftsIgnoreY
  intro s x y y' h
  have hop : s.shiftOperand x y = s.shiftOperand x y' := by
    simp only [State.shiftOperand, h, Bool.false_eq_true, if_false]
  simp only [exec, execShr, execShl, hop, and_self]

end Sys2Proof.Machine
end

section
/-!
PROOFS. The font table (`20_memory.md` R59) and the table's words (`30_encoding.md` R77).
-/
namespace Sys2Proof

/-- Bits 3:0 of every byte of the default table are 0, tested over the list. -/
theorem fontTable_default_low_bits : Config.default.fontTable.toList.all (fun b => b.toNat % 16 == 0) = true := rfl

/-- Settles O3: glyph 0 is the first part of every font table; the rest of the default is its literal. -/
theorem fontTableBytes : Obligations.FontTableBytes := by
  unfold Obligations.FontTableBytes
  refine ⟨fun c => ?_, rfl, rfl, fun b hb => beq_iff_eq.mp (List.all_eq_true.mp fontTable_default_low_bits b hb)⟩
  rw [Config.fontTable, Vector.toList_append]
  exact List.take_left' rfl

/-- Settles O4, by running the decoder on the twelve words. -/
theorem tableWordsDecode : Obligations.TableWordsDecode := by
  unfold Obligations.TableWordsDecode
  exact ⟨rfl, rfl, rfl, rfl, rfl, rfl, rfl, rfl, rfl, rfl, rfl, rfl⟩

end Sys2Proof
end

section
/-!
PROOFS. Keypad (`43_keypad.md`): the two key skips and the key wait.
-/
namespace Sys2Proof.Machine

variable {s : State} {x : Reg} {k : Key}

/-- Settles O33: a skip on the flag of the key, or on its negation; no key above 15. -/
theorem keySkipsTestTheKey : Obligations.KeySkipsTestTheKey := by
  unfold Obligations.KeySkipsTestTheKey
  refine fun s x => ⟨fun k hk => ⟨?_, ?_⟩, fun hgt i hi => exec_keySkip_of_gt hi hgt⟩
  · rw [exec_skp_of_key hk]
    exact s.skipIf_adds_two id id
  · rw [exec_sknp_of_key hk]
    exact s.skipIf_adds_two (congrArg not) (congrArg not)

theorem State.firstPressed_eq_none (h : ∀ k, s.key k = false) : s.firstPressed = none :=
  List.find?_eq_none.mpr fun k _ => by simp [h k]

/-- A legal scan order visits every key, so a pressed one is found (R192). -/
theorem State.exists_firstPressed (hc : s.cfg.wf = true) (h : ∃ k, s.key k = true) : ∃ k, s.firstPressed = some k := by
  obtain ⟨k, hk⟩ := h
  have hmem : k ∈ s.cfg.keyScanOrder := (List.isPerm_iff.mp hc).mem_iff.mpr (List.mem_finRange k)
  exact Option.isSome_iff_exists.mp (List.find?_isSome.mpr ⟨k, hmem, hk⟩)

/-- The key that the scan finds is pressed, and no key before it in the scan order is. -/
theorem State.firstPressed_spec (h : s.firstPressed = some k) : s.key k = true ∧
    ∀ j, s.cfg.keyScanOrder.idxOf j < s.cfg.keyScanOrder.idxOf k → s.key j = false := by
  obtain ⟨hk, before, after, horder, hbefore⟩ := List.find?_eq_some_iff_append.mp h
  refine ⟨hk, fun j hj => ?_⟩
  have hunpressed (l : Key) (hl : l ∈ before) : s.key l = false := by simpa using hbefore l hl
  have hkb : k ∉ before := fun hmem => by simp [hunpressed k hmem] at hk
  rw [horder, List.idxOf_append_of_notMem hkb, List.idxOf_cons_self] at hj
  by_contra hpressed
  have hjb : j ∉ before := fun hmem => hpressed (hunpressed j hmem)
  rw [List.idxOf_append_of_notMem hjb] at hj
  omega

theorem Config.idxOf_ascendingKeys : ∀ j : Key, Config.ascendingKeys.idxOf j = j.val := by decide

theorem keyByte_toNat : (BitVec.ofNat 8 k.val : Byte).toNat = k.val := by
  rw [BitVec.toNat_ofNat]
  omega

/-- Settles O34: the scan finds nothing, or the first pressed key. -/
theorem keyWaitPolls : Obligations.KeyWaitPolls := by
  unfold Obligations.KeyWaitPolls
  refine fun s x => ⟨fun h => exec_ldVxK_of_none (State.firstPressed_eq_none h), fun hc h => ?_⟩
  obtain ⟨k, hfirst⟩ := State.exists_firstPressed hc h
  obtain ⟨hk, hbefore⟩ := State.firstPressed_spec hfirst
  obtain ⟨hx, hframe⟩ := s.setV_writes_only x (BitVec.ofNat 8 k.val)
  refine ⟨_, k, exec_ldVxK_of_some hfirst, hk, hbefore, fun hdefault j hj => hbefore j ?_,
    (congrArg BitVec.toNat hx).trans keyByte_toNat, hframe⟩
  have hasc : s.cfg.keyScanOrder = Config.ascendingKeys := hdefault
  rw [hasc, Config.idxOf_ascendingKeys, Config.idxOf_ascendingKeys]
  exact hj

theorem State.awaitingKey_iff : s.awaitingKey = true ↔ s.status = .running ∧ ∃ x, s.fetchDecode = .ok (.ldVxK x) := by
  unfold State.awaitingKey
  split
  case h_1 x hs hd => simp [hs, hd]
  case h_2 hno => simpa using fun hs x hd => hno x hs hd

/-- Settles O35: the key wait takes the advance back. -/
theorem awaitingKeyWaits : Obligations.AwaitingKeyWaits := by
  unfold Obligations.AwaitingKeyWaits
  refine ⟨fun s => State.awaitingKey_iff, fun s r hwait hkeys => ?_⟩
  obtain ⟨hs, x, hd⟩ := State.awaitingKey_iff.mp hwait
  have hnone : (s.presentRnd r).advance.firstPressed = none := State.firstPressed_eq_none hkeys
  rw [stepWith_of_ok hs hd, exec_ldVxK_of_none hnone]
  simp [State.setPc, State.advance, State.presentRnd]

end Sys2Proof.Machine
end

section
/-!
PROOFS. Index register, digits and blocks (`44_index_timer_memory.md`).
-/
namespace Sys2Proof.Machine

variable {s t u : State} {x k : Reg}

theorem glyphAddr_toNat {b : Byte} : (glyphAddr b).toNat = b.toNat % 16 * 5 := by
  have hand : b.toNat &&& 0x0F = b.toNat % 16 := Nat.and_two_pow_sub_one_eq_mod b.toNat 4
  rw [glyphAddr, hand, BitVec.toNat_ofNat]
  omega

/-- Settles O37: each instruction is one write of `I`. -/
theorem indexRegisterOps : Obligations.IndexRegisterOps := by
  unfold Obligations.IndexRegisterOps
  exact fun s x nnn => ⟨⟨_, rfl, addrOperand_toNat, rfl⟩, ⟨_, rfl, BitVec.toNat_ofNat _ _, rfl⟩,
    ⟨_, rfl, glyphAddr_toNat, rfl⟩⟩

/-! ### Stores from `I` (R216, R217) -/

theorem State.storeFault?_eq_none_of_allowed {last : Nat} (hr : s.i.toNat + last ≤ 0xFFF)
    (hf : 0x04F < s.i.toNat ∨ s.cfg.fontWritePolicy = .allow) : s.storeFault? last = none := by
  refine State.storeFault?_eq_none.mpr ⟨hr, fun hp => hf.resolve_right fun hallow => ?_⟩
  cases hp.symm.trans hallow

theorem exec_storeBlock_of_allowed (hr : s.i.toNat + x.val ≤ 0xFFF)
    (hf : 0x04F < s.i.toNat ∨ s.cfg.fontWritePolicy = .allow) :
    exec (.storeBlock x) s = .next (s.storeBytes s.i.toNat (s.firstVs x)) :=
  State.storeFromI_of_none State.length_firstVs (by omega) (State.storeFault?_eq_none_of_allowed hr hf)

/-- Settles O38: the three digits are the three stored bytes. -/
theorem decimalDigitsStored : Obligations.DecimalDigitsStored := by
  unfold Obligations.DecimalDigitsStored
  refine fun s x hwf => ⟨fun hr hf => ?_, fun hr => exec_of_fault (State.storeFault?_of_gt hr),
    fun hi hp => exec_of_fault (State.storeFault?_of_font (last := 2) (by omega) hi hp)⟩
  have hv := (s.getV x).isLt
  have hread {j : Nat} (hj : j < 3) := State.readByte_storeBytes (bs := decimalDigits (s.getV x)) (a := s.i.toNat) hwf
    (show s.i.toNat + 3 ≤ 4096 by omega) hj
  refine ⟨_, State.storeFromI_of_none (last := 2) rfl (by omega) (State.storeFault?_eq_none_of_allowed hr hf),
    s.storeBytes_frame _ _, ?_, ?_, ?_, fun a ha => State.readByte_storeBytes_of_outside ?_⟩
  · refine (congrArg BitVec.toNat (hread (j := 0) (by omega))).trans ((BitVec.toNat_ofNat _ _).trans ?_)
    omega
  · refine (congrArg BitVec.toNat (hread (j := 1) (by omega))).trans ((BitVec.toNat_ofNat _ _).trans ?_)
    omega
  · refine (congrArg BitVec.toNat (hread (j := 2) (by omega))).trans ((BitVec.toNat_ofNat _ _).trans ?_)
    omega
  · show a < s.i.toNat ∨ s.i.toNat + 3 ≤ a
    omega

/-- A stored register reads back from its place in the block. -/
theorem State.readByte_storeBlock (hwf : Memory.wf s.cfg s.mem = true) (hr : s.i.toNat + x.val ≤ 0xFFF)
    (hk : k.val ≤ x.val) :
    (s.storeBytes s.i.toNat (s.firstVs x)).readByte (s.i.toNat + k.val) = s.getV k := by
  have hlen : (s.firstVs x).length = x.val + 1 := State.length_firstVs
  rw [State.readByte_storeBytes hwf (by omega) (by omega), State.getElem_firstVs]

/-- Settles O39: the registers are the stored block; its check faults out of range, else in the font. -/
theorem blockStoreWritesMemory : Obligations.BlockStoreWritesMemory := by
  unfold Obligations.BlockStoreWritesMemory
  refine fun s x hwf => ⟨fun hr hf => ?_, fun hr => exec_of_fault (State.storeFault?_of_gt hr),
    fun hi hp => exec_of_fault (State.storeFault?_of_font (last := x.val) (by omega) hi hp)⟩
  have hlen : (s.firstVs x).length = x.val + 1 := State.length_firstVs
  exact ⟨_, exec_storeBlock_of_allowed hr hf, s.storeBytes_frame _ _, fun k hk => State.readByte_storeBlock hwf hr hk,
    fun a ha => State.readByte_storeBytes_of_outside (by omega)⟩

/-- Settles O40: the read block is the new value of the named registers; its check faults out of range. -/
theorem blockLoadReadsMemory : Obligations.BlockLoadReadsMemory := by
  unfold Obligations.BlockLoadReadsMemory
  refine fun s x => ⟨fun hr => ⟨_, exec_loadBlock_of_le hr, s.setVsFrom_frame _ _, fun k hk => ?_, fun z hz => ?_⟩,
    fun hr => exec_loadBlock_of_gt hr⟩
  · rw [State.getV_loadBlock, if_pos hk]
  · rw [State.getV_loadBlock, if_neg (not_le_of_gt hz)]

/-- Settles O41: the load reads the block at the same `I`, in memory that nothing has written since the store. -/
theorem blockStoreThenLoad : Obligations.BlockStoreThenLoad := by
  unfold Obligations.BlockStoreThenLoad
  intro s t u w x hwf hr hf hstore hu hload k hk
  cases (exec_storeBlock_of_allowed hr hf).symm.trans hstore
  have hi : u.i = s.i := (congrArg State.i hu).trans (s.storeBytes_i _ _)
  have hread (a : Nat) : u.readByte a = (s.storeBytes s.i.toNat (s.firstVs x)).readByte a :=
    congrArg (·.readByte a) hu
  cases (exec_loadBlock_of_le (by rw [hi]; exact hr)).symm.trans hload
  rw [State.getV_loadBlock, if_pos hk, hi, hread]
  exact State.readByte_storeBlock hwf hr hk

/-- Settles O42: the two bytes at `pc` are the two stored registers. -/
theorem storeIsSeenByTheFetch : Obligations.StoreIsSeenByTheFetch := by
  unfold Obligations.StoreIsSeenByTheFetch
  intro s t u x k l hwf hr hf hstore hl hlx hmem hcfg hpc
  cases (exec_storeBlock_of_allowed hr hf).symm.trans hstore
  have hlx' : l.val ≤ x.val := hlx
  have hread (j : Reg) (hj : j.val ≤ x.val) : u.readByte (s.i.toNat + j.val) = s.getV j := by
    rw [State.readByte, hmem, hcfg]
    exact State.readByte_storeBlock hwf hr hj
  have hnext : s.i.toNat + k.val + 1 = s.i.toNat + l.val := by omega
  rw [State.fetchWord_of_le (by omega), hpc, hnext, hread k (by omega), hread l hlx']

end Sys2Proof.Machine
end

section
/-!
PROOFS. Draw (`42_draw.md`): the sprite's pixels, the collision, and the same sprite drawn twice.
-/
namespace Sys2Proof.Machine

variable {s : State} {x y : Reg} {rows : List Byte} {u : Fin 64} {w : Fin 32} {n : Nat}

theorem State.pixel_drawSprite (h : rows.length ≤ 32) : (s.drawSprite x y rows).pixel u w =
    (s.pixel u w ^^ decide ((u, w) ∈ spriteBits (s.getV x) (s.getV y) 0 rows)) :=
  (blit_spriteBits h).1 u w

/-- A drawn sprite changes exactly the pixels under its set bits. -/
theorem State.pixel_drawSprite_ne_iff (h : rows.length ≤ 32) : (s.drawSprite x y rows).pixel u w ≠ s.pixel u w ↔
    (u, w) ∈ spriteBits (s.getV x) (s.getV y) 0 rows := by
  rw [State.pixel_drawSprite h]
  by_cases hmem : (u, w) ∈ spriteBits (s.getV x) (s.getV y) 0 rows <;> simp [hmem]

theorem State.mem_spriteBits_bytesFromI {x0 y0 : Byte} : (u, w) ∈ spriteBits x0 y0 0 (s.bytesFromI n) ↔
    ∃ r b, r < n ∧ b < 8 ∧ (s.readByte (s.i.toNat + r)).getLsbD (7 - b) = true ∧
      u.val = (x0.toNat + b) % 64 ∧ w.val = (y0.toNat + r) % 32 := by
  simp only [mem_spriteBits, State.getElem_bytesFromI, State.length_bytesFromI, exists_prop, Nat.zero_add]

/-- The collision: a pixel lit before is unlit after. -/
theorem State.drawSprite_collision_iff (h : rows.length ≤ 32) :
    (blit s.fb (spriteBits (s.getV x) (s.getV y) 0 rows)).2 = true ↔
      ∃ u w, s.pixel u w = true ∧ (s.drawSprite x y rows).pixel u w = false := by
  rw [(blit_spriteBits h).2, List.any_eq_true]
  simp only [State.pixel_drawSprite h, Prod.exists]
  refine exists_congr fun u => exists_congr fun w => ?_
  rw [and_comm]
  refine and_congr_right fun hlit => ?_
  simp [State.pixel, hlit]

theorem State.getV_drawSprite_vf : (s.drawSprite x y rows).getV 15 =
    flagByte (blit s.fb (spriteBits (s.getV x) (s.getV y) 0 rows)).2 := State.getV_setV_self

/-- Settles O31: the changed pixels are those under a set bit, VF is the collision; a row past the arena
raises before anything is drawn. -/
theorem drawXorsTheSprite : Obligations.DrawXorsTheSprite := by
  unfold Obligations.DrawXorsTheSprite
  refine fun s x y n hn => ⟨fun hr => ?_, fun h0 hr => exec_drw_of_gt h0 hr⟩
  have hlen : (s.bytesFromI n).length ≤ 32 := by rw [State.length_bytesFromI]; omega
  refine ⟨_, exec_drw_of_le hr, fun u w => ?_, fun hhit => ?_, fun hmiss => ?_, fun z hz => State.getV_setV_of_ne hz, rfl⟩
  · rw [State.pixel_drawSprite_ne_iff hlen, State.mem_spriteBits_bytesFromI]
  · rw [State.getV_drawSprite_vf, (State.drawSprite_collision_iff hlen).mpr hhit]
    rfl
  · rw [State.getV_drawSprite_vf, Bool.eq_false_iff.mpr fun hc => hmiss ((State.drawSprite_collision_iff hlen).mp hc)]
    rfl

/-- Settles O32: the same set of pixels is toggled twice. -/
theorem drawTwiceRestores : Obligations.DrawTwiceRestores := by
  unfold Obligations.DrawTwiceRestores
  intro s t u w x y n hn hr hfirst hx hy hu hsecond
  cases (exec_drw_of_le hr).symm.trans hfirst
  have hi : u.i = s.i := (congrArg State.i hu).trans rfl
  have hrows : u.bytesFromI n = s.bytesFromI n := (congrArg (·.bytesFromI n) hu).trans rfl
  have hpixel (p : Fin 64) (q : Fin 32) : u.pixel p q = (s.drawSprite x y (s.bytesFromI n)).pixel p q :=
    congrArg (·.pixel p q) hu
  cases (exec_drw_of_le (by rw [hi]; exact hr)).symm.trans hsecond
  have hlen : (s.bytesFromI n).length ≤ 32 := by rw [State.length_bytesFromI]; omega
  refine fb_ext fun p q => ?_
  show (u.drawSprite x y (u.bytesFromI n)).pixel p q = s.pixel p q
  rw [hrows, State.pixel_drawSprite hlen, hpixel, State.pixel_drawSprite hlen, hx, hy, Bool.xor_assoc, Bool.xor_self,
    Bool.xor_false]

end Sys2Proof.Machine
end
